-- ==== Sys2Proof/Word.lean ====
section
/-!
DEFINITION. The widths of the unit (R7, R8, R10, R20, R80): a 64-bit word, a 32-bit command word, a byte, the field
modulus, the canonical range, and the 16-element vector that the state register file and every whole-state function hold.
-/

namespace Sys2Proof

/-- A 64-bit word: what a state register holds and what crosses the data ports (R8, R20, R64). -/
abbrev Word := BitVec 64

/-- A command word (R8, R80). -/
abbrev CmdWord := BitVec 32

/-- One byte: an entry of the lookup ROM (R37). -/
abbrev Byte := BitVec 8

/-- A 32-bit limb, one half of an element (R65). -/
abbrev Limb := BitVec 32

/-- The field modulus `2^64 - 2^32 + 1` (R7, R110). -/
abbrev P : Nat := 0xFFFFFFFF00000001

/-- `canon(v)`: the value is in `[0, P)` (R12, R14). -/
abbrev canon (w : Word) : Prop := w.toNat < P

/-- A state register index; every 4-bit index names a register (R20, R61). -/
abbrev RegIdx := Fin 16

/-- A 16-vector of elements, position 0 first (R20, R67). -/
abbrev Elems := Vector Word 16

end Sys2Proof
end

