-- ==== Sys2Proof/Config.lean ====
section
/-!
DEFINITION. What is fixed when the unit is built and the spec does not list (R9, 00_scope.md): the three constant stores,
the clock-stop parameter and the latencies; and a FREE VALUE, a value the spec leaves open (93_implementation_defined.md U6;
the other one, U18, is `Config.freeState`, in Machine/State.lean beside its type). The constants have no body: nothing can
evaluate them or prove a value of them.
-/

namespace Sys2Proof

/-- The contents of the three constant stores (R37, R38, R39), with the constraints R9 puts on them carried by the types:
`LUT` is a bijection on the bytes, every coefficient and every round constant is canonical. The round constants are the
flat list of 80, "ordered by round then by state position" (R39). -/
structure Rom where
  lut      : Equiv.Perm Byte
  mdsCoeff : Fin 16 → Fin P
  rcFlat   : Fin 80 → Fin P
deriving Inhabited

/-- DESIGN CHOICE (log 3; safe): the unit's ROM contents, the open parameters `LUT`, `MDS_COEFF` and `RC` of R9. No command,
port or reset writes them (R40, R263). -/
opaque Config.rom : Rom

/-- `CLOCK_STOP_RETAINS` (R9, R246, D37): whether S and STATUS survive a stopped clock. -/
opaque Config.clockStopRetains : Bool

/-- Free value (U6; log 4): `rsp_data` while `rsp_valid` = 0, "unspecified" by R35. -/
opaque Config.freeRspData : Nat → Word

/-- The latency parameters of R270. -/
inductive LatParam where
  | simple | mul | pow | sbox | mds | arc | round | perm
deriving DecidableEq, Repr

/-- The timing of one conforming unit: R270 lets every `LAT_*` be any positive number of cycles, and R173, R196 and U3 leave
the organisation of the sequencer free. `pace w n` says whether the sequencer, carrying out the command word `w` with `n`
busy cycles left, goes on to another phase of R196 at this edge; what is left is done at the edge that begins the last (DESIGN CHOICE, log 9). -/
structure Timing where
  lat  : LatParam → Nat
  pace : CmdWord → Nat → Bool

/-- Every latency is positive (R9, R270). -/
def Timing.Positive (t : Timing) : Prop := ∀ p : LatParam, 0 < t.lat p

end Sys2Proof
end

