-- ==== Sys2Proof/Syntax.lean ====
section
/-!
DEFINITION. The 19 commands of the unit as data, one constructor per row of spec/opcode_table.json (R85). A register
operand is an index 0..15 (R83), the byte index of BYTE is 0..3, the round index of ARC and ROUND is the 3-bit field
IMM[2:0], whose values 5, 6 and 7 are ill-formed (R84, WellFormed.lean).
-/

namespace Sys2Proof

/-- One command (R85). The 64-bit data word of WRS is not part of the command word: it is read from the data port (R82). -/
inductive Instr where
  | nop
  | wrs (rd : RegIdx)
  | rds (rs1 : RegIdx)
  | rdstat
  | clrerr
  | fadd (rd rs1 rs2 : RegIdx)
  | fmul (rd rs1 rs2 : RegIdx)
  | limbhi (rd rs1 : RegIdx)
  | limblo (rd rs1 : RegIdx)
  | fromlimbs (rd rs1 rs2 : RegIdx)
  | byte (rd rs1 : RegIdx) (k : Fin 4)
  | lut (rd rs1 : RegIdx)
  | sbl (rd rs1 : RegIdx)
  | sbp (rd rs1 : RegIdx)
  | sbox
  | mds
  | arc (r : Fin 8)
  | round (r : Fin 8)
  | perm
deriving DecidableEq, Repr

end Sys2Proof
end

