-- ==== Sys2Proof/WellFormed.lean ====
section
/-!
DEFINITION. Which commands are well formed: the round index of ARC and ROUND is at most 4 (R84, R87); every other operand is
legal at every value its field can hold (R61, R84).
-/

namespace Sys2Proof

/-- R84: "ARC and ROUND take the round index `r = cmd[2:0]` and require ... `r ≤ 4`". -/
def Instr.wellFormed : Instr → Bool
  | .arc r => decide (r.val ≤ 4)
  | .round r => decide (r.val ≤ 4)
  | .nop | .wrs _ | .rds _ | .rdstat | .clrerr => true
  | .fadd _ _ _ | .fmul _ _ _ | .limbhi _ _ | .limblo _ _ | .fromlimbs _ _ _ | .byte _ _ _ => true
  | .lut _ _ | .sbl _ _ | .sbp _ _ | .sbox | .mds | .perm => true

end Sys2Proof
end

