-- ==== Sys2Proof/Decode.lean ====
section
/-!
DEFINITION. The command word: its fields (R81, R83, R84), the match and mask table (R92, R93), the decoder (R89), total on
every word and rejecting by name (R86, R87, R88), and the encoder, written from the same table of fields and opcodes.
-/

namespace Sys2Proof

/-! ## Fields (R81) -/

/-- OPC, bits 31:24. -/
def opcField (w : CmdWord) : BitVec 8 := w.extractLsb' 24 8

/-- RD, bits 23:20, as an index (R83). -/
def rdField (w : CmdWord) : RegIdx := ⟨(w.extractLsb' 20 4).toNat, (w.extractLsb' 20 4).isLt⟩

/-- RS1, bits 19:16, as an index (R83). -/
def rs1Field (w : CmdWord) : RegIdx := ⟨(w.extractLsb' 16 4).toNat, (w.extractLsb' 16 4).isLt⟩

/-- RS2, bits 15:12, as an index (R83). -/
def rs2Field (w : CmdWord) : RegIdx := ⟨(w.extractLsb' 12 4).toNat, (w.extractLsb' 12 4).isLt⟩

/-- IMM, bits 11:0 (R81). -/
def immField (w : CmdWord) : BitVec 12 := w.extractLsb' 0 12

/-- The byte index of BYTE, IMM[1:0] (R84). -/
def byteIndexField (w : CmdWord) : Fin 4 := ⟨(w.extractLsb' 0 2).toNat, (w.extractLsb' 0 2).isLt⟩

/-- The round index of ARC and ROUND, IMM[2:0] (R84). -/
def roundIndexField (w : CmdWord) : Fin 8 := ⟨(w.extractLsb' 0 3).toNat, (w.extractLsb' 0 3).isLt⟩

/-! ## The decoder's table (R92) -/

/-- The 19 mnemonics of R85. -/
inductive Op where
  | nop | wrs | rds | rdstat | clrerr
  | fadd | fmul | limbhi | limblo | fromlimbs | byte
  | lut | sbl | sbp | sbox | mds | arc | round | perm
deriving DecidableEq, Repr

/-- A row of R92: a 1 in the mask is a bit the decoder checks against the match. -/
structure Row where
  op        : Op
  matchBits : CmdWord
  mask      : CmdWord
deriving DecidableEq, Repr

/-- The match and mask table of R92, in its order. -/
def rows : List Row :=
  [ ⟨.nop,       0x00000000, 0xFFFFFFFF⟩
  , ⟨.wrs,       0x01000000, 0xFF0FFFFF⟩
  , ⟨.rds,       0x02000000, 0xFFF0FFFF⟩
  , ⟨.rdstat,    0x03000000, 0xFFFFFFFF⟩
  , ⟨.clrerr,    0x04000000, 0xFFFFFFFF⟩
  , ⟨.fadd,      0x10000000, 0xFF000FFF⟩
  , ⟨.fmul,      0x11000000, 0xFF000FFF⟩
  , ⟨.limbhi,    0x12000000, 0xFF00FFFF⟩
  , ⟨.limblo,    0x13000000, 0xFF00FFFF⟩
  , ⟨.fromlimbs, 0x14000000, 0xFF000FFF⟩
  , ⟨.byte,      0x15000000, 0xFF00FFFC⟩
  , ⟨.lut,       0x20000000, 0xFF00FFFF⟩
  , ⟨.sbl,       0x21000000, 0xFF00FFFF⟩
  , ⟨.sbp,       0x22000000, 0xFF00FFFF⟩
  , ⟨.sbox,      0x23000000, 0xFFFFFFFF⟩
  , ⟨.mds,       0x30000000, 0xFFFFFFFF⟩
  , ⟨.arc,       0x31000000, 0xFFFFFFF8⟩
  , ⟨.round,     0x32000000, 0xFFFFFFF8⟩
  , ⟨.perm,      0x33000000, 0xFFFFFFFF⟩ ]

/-- `(w AND mask) == match` (R89). -/
def Row.fits (r : Row) (w : CmdWord) : Bool := w &&& r.mask == r.matchBits

/-! ## The decoder (R89) -/

/-- Why a word is illegal (R86, R87). All three are E_ILLEGAL (R231); the names are the model's. -/
inductive Illegal where
  /-- The OPC value is not in the table of R85. -/
  | undefinedOpcode
  /-- A field the command does not use, or an IMM bit outside the immediate it uses, is not zero (R86). -/
  | unusedFieldNonzero
  /-- ARC or ROUND with a round index of 5, 6 or 7 (R87). -/
  | roundIndex
deriving DecidableEq, Repr

/-- What the decoder answers: R89's `Cmd(...)` or `Illegal`. -/
inductive Decoded where
  | cmd (i : Instr)
  | illegal (why : Illegal)
deriving DecidableEq, Repr

/-- The instruction of a decoded word, if there is one. -/
def Decoded.instr? : Decoded → Option Instr
  | .cmd i => some i
  | .illegal _ => none

/-- The command a row's word stands for: its operands taken from the fields (R83, R84), with R89's check of the round
index. -/
def build (op : Op) (w : CmdWord) : Decoded :=
  match op with
  | .nop => .cmd .nop
  | .wrs => .cmd (.wrs (rdField w))
  | .rds => .cmd (.rds (rs1Field w))
  | .rdstat => .cmd .rdstat
  | .clrerr => .cmd .clrerr
  | .fadd => .cmd (.fadd (rdField w) (rs1Field w) (rs2Field w))
  | .fmul => .cmd (.fmul (rdField w) (rs1Field w) (rs2Field w))
  | .limbhi => .cmd (.limbhi (rdField w) (rs1Field w))
  | .limblo => .cmd (.limblo (rdField w) (rs1Field w))
  | .fromlimbs => .cmd (.fromlimbs (rdField w) (rs1Field w) (rs2Field w))
  | .byte => .cmd (.byte (rdField w) (rs1Field w) (byteIndexField w))
  | .lut => .cmd (.lut (rdField w) (rs1Field w))
  | .sbl => .cmd (.sbl (rdField w) (rs1Field w))
  | .sbp => .cmd (.sbp (rdField w) (rs1Field w))
  | .sbox => .cmd .sbox
  | .mds => .cmd .mds
  | .arc => if (roundIndexField w).val > 4 then .illegal .roundIndex else .cmd (.arc (roundIndexField w))
  | .round => if (roundIndexField w).val > 4 then .illegal .roundIndex else .cmd (.round (roundIndexField w))
  | .perm => .cmd .perm

/-- Whether the OPC value is one of R85's: the OPC bits of some row. -/
def definedOpcode (w : CmdWord) : Bool := rows.any fun r => opcField w == opcField r.matchBits

/-- The decoder of R89: the first row that fits, its command; otherwise illegal, by name. Total on every 32-bit word. -/
def decode (w : CmdWord) : Decoded :=
  match rows.find? (·.fits w) with
  | some r => build r.op w
  | none => .illegal (if definedOpcode w then .unusedFieldNonzero else .undefinedOpcode)

/-! ## The encoder -/

/-- A command word from its fields: `OPC ++ RD ++ RS1 ++ RS2 ++ IMM` (R10, R81). -/
def assembleWord (opc : BitVec 8) (rd rs1 rs2 : RegIdx) (imm : BitVec 12) : CmdWord :=
  opc ++ BitVec.ofNat 4 rd.val ++ BitVec.ofNat 4 rs1.val ++ BitVec.ofNat 4 rs2.val ++ imm

/-- The word of a command: the opcode of R85, its operands in their fields, every unused field zero (R86). -/
def encode : Instr → CmdWord
  | .nop => assembleWord 0x00 0 0 0 0
  | .wrs rd => assembleWord 0x01 rd 0 0 0
  | .rds rs1 => assembleWord 0x02 0 rs1 0 0
  | .rdstat => assembleWord 0x03 0 0 0 0
  | .clrerr => assembleWord 0x04 0 0 0 0
  | .fadd rd rs1 rs2 => assembleWord 0x10 rd rs1 rs2 0
  | .fmul rd rs1 rs2 => assembleWord 0x11 rd rs1 rs2 0
  | .limbhi rd rs1 => assembleWord 0x12 rd rs1 0 0
  | .limblo rd rs1 => assembleWord 0x13 rd rs1 0 0
  | .fromlimbs rd rs1 rs2 => assembleWord 0x14 rd rs1 rs2 0
  | .byte rd rs1 k => assembleWord 0x15 rd rs1 0 (BitVec.ofNat 12 k.val)
  | .lut rd rs1 => assembleWord 0x20 rd rs1 0 0
  | .sbl rd rs1 => assembleWord 0x21 rd rs1 0 0
  | .sbp rd rs1 => assembleWord 0x22 rd rs1 0 0
  | .sbox => assembleWord 0x23 0 0 0 0
  | .mds => assembleWord 0x30 0 0 0 0
  | .arc r => assembleWord 0x31 0 0 0 (BitVec.ofNat 12 r.val)
  | .round r => assembleWord 0x32 0 0 0 (BitVec.ofNat 12 r.val)
  | .perm => assembleWord 0x33 0 0 0 0

/-- The instruction the decoder reads from the first `nbits` bits of `w`, bit 0 the least significant of the command word;
the bits above `nbits` are zero. The bits from 32 on are the data word, which no decoding reads (R80, R82). -/
def decodeTableWord (nbits w : Nat) : Option Instr := (decode (BitVec.ofNat 32 (w % 2 ^ nbits))).instr?

end Sys2Proof
end

