-- ==== Sys2Proof/Machine/Field.lean ====
section
/-!
DEFINITION. The functions of 40_field_arithmetic.md §1 and the power map of 41_lookup_and_sboxes.md: each is the exact integer
result, narrowed at the end (R111, R117).
-/

namespace Sys2Proof.Machine

/-- The 16-vector of the values of `f`, position 0 first. -/
def tabulate (f : RegIdx → Word) : Elems :=
  #v[f 0, f 1, f 2, f 3, f 4, f 5, f 6, f 7, f 8, f 9, f 10, f 11, f 12, f 13, f 14, f 15]

/-- `reduce(x) = x mod P` (R111). -/
def reduce (x : Nat) : Word := BitVec.ofNat 64 (x % P)

/-- `fadd(a, b) = (a + b) mod P` (R112). -/
def fadd (a b : Word) : Word := reduce (a.toNat + b.toNat)

/-- `fmul(a, b) = (a * b) mod P` (R113). -/
def fmul (a b : Word) : Word := reduce (a.toNat * b.toNat)

/-- `to_limbs(a) = (a[63:32], a[31:0])`, the more significant half first (R65, R114). -/
def toLimbs (a : Word) : Limb × Limb := (a.extractLsb' 32 32, a.extractLsb' 0 32)

/-- `from_limbs(hi32, lo32) = hi32 * 2^32 + lo32` (R115). -/
def fromLimbs (hi lo : Limb) : Word := hi ++ lo

/-- `to_bytes(l) = (b0, b1, b2, b3)`, `bk = l[8k+7:8k]` (R66, R116). -/
def toBytes (l : Limb) : Vector Byte 4 :=
  #v[l.extractLsb' 0 8, l.extractLsb' 8 8, l.extractLsb' 16 8, l.extractLsb' 24 8]

/-- `from_bytes(b0, b1, b2, b3) = b0 + 256*b1 + 65536*b2 + 16777216*b3` (R116). -/
def fromBytes (b : Vector Byte 4) : Limb :=
  BitVec.ofNat 32 (b[0].toNat + 256 * b[1].toNat + 65536 * b[2].toNat + 16777216 * b[3].toNat)

/-- `fpow7(a) = a^7 mod P` by R146's chain of four field multiplications. -/
def fpow7 (a : Word) : Word :=
  let x2 := fmul a a
  let x3 := fmul x2 a
  let x6 := fmul x3 x3
  fmul x6 a

end Sys2Proof.Machine
end

