-- ==== Sys2Proof/Machine/State.lean ====
section
/-!
DEFINITION. The machine's state, as plain data (10_state.md), the actions of the host that a step reads (R34, R246, R260), the
ways a step can stop (none: R36), and the state after reset (R44, R261).
-/

namespace Sys2Proof.Machine

/-- The ways the unit stops. There is none: "The step function is total: every 32-bit command word and every 64-bit data word
give a next state (possibly the error path of 60_exceptions.md)" (R36). An error of the spec is a NEXT state with STATUS
written (R232). -/
inductive Fault : Type
deriving DecidableEq, Repr

/-- The ways the model has no meaning for a command. -/
inductive Refusal where
  /-- Raised by an arm of `exec` whose command has no meaning yet; safe. No arm raises it now. -/
  | notModelled (mnemonic : String)
deriving DecidableEq, Repr

/-- The status register (R25). Its reserved bits have no storage: they always read 0 (R26), see `Status.word`. -/
structure Status where
  /-- bit 0, R28: a multi-cycle command is in progress. -/
  busy  : Bool
  /-- bit 1, R29: the sticky error flag. -/
  err   : Bool
  /-- bits 7:4, R30: the cause code of the recorded error. -/
  ecode : BitVec 4
  /-- bits 63:32, R31: the command word that raised it. -/
  ecmd  : CmdWord
deriving DecidableEq, Repr, Inhabited

/-- The phase of the sequencer, PH (R41). -/
inductive Phase where
  | idle | sub | lin | addrc | done
deriving DecidableEq, Repr, Inhabited

/-- What the host does next, at the level of architectural steps (R16, R34, R246, R260; DESIGN CHOICE, log 2). -/
inductive HostAct where
  /-- It presents a command word with its data word on the command port (R34, R80). -/
  | command (word : CmdWord) (data : Word)
  /-- It leaves a cycle with `cmd_valid` = 0 (R34). -/
  | idle
  /-- It holds `rst` = 1 for one or more edges (R260). -/
  | reset
  /-- The platform stops the clock and starts it again (R246). -/
  | stopClock
deriving DecidableEq, Repr

/-- Everything the spec gives the machine (INVENTORY.md, State), and two fields of the model's own. -/
structure State where
  /-- S0..S15 (R20). -/
  regs    : Elems
  /-- STATUS (R25). -/
  status  : Status
  /-- PH (R41). -/
  ph      : Phase
  /-- RND, "3 bits, values 0..4" (R42). -/
  rnd     : Fin 5
  /-- The index of the last round of the sequence, `last` of R196. -/
  last    : Fin 5
  /-- The working state V of a multi-cycle command (R43, R196). -/
  work    : Elems
  /-- The busy cycles the command in progress has left (R266, R270). -/
  left    : Nat
  /-- The command word sampled at the last accepting edge (R265). -/
  cmd     : CmdWord
  /-- The data word sampled with it (R82, R265). -/
  cmdData : Word
  /-- The response port: `some v` is `rsp_valid` = 1 with `v` on `rsp_data` (R35). -/
  rsp     : Option Word
  /-- The model's own (log 2): what the host does next, oldest first. -/
  host    : List HostAct
  /-- The model's own (log 5): the index the free values are read at. -/
  freeIdx : Nat
deriving DecidableEq, Repr, Inhabited

/-- STATUS after reset: every field 0 (R44). -/
def Status.reset : Status := { busy := false, err := false, ecode := 0, ecmd := 0 }

/-- The machine right after reset (R44, R261): S = 0, STATUS = 0, PH = IDLE, RND = 0, `rsp_valid` = 0. R44 names no value for
`last`, the working state, the sampled words and the cycles left: 0 each, DESIGN CHOICE (logs 6, 7, 8). The host's actions and
the free index are the model's own (logs 2, 5). -/
def State.reset : State :=
  { regs := Vector.replicate 16 0, status := Status.reset, ph := .idle, rnd := 0, last := 0,
    work := Vector.replicate 16 0, left := 0, cmd := 0, cmdData := 0, rsp := none, host := [], freeIdx := 0 }

end Sys2Proof.Machine

namespace Sys2Proof

/-- Free value (R246, U18; log 5): what the unit holds after a stop of the clock that it does not retain its state across. No body:
nothing can be proved of it. -/
opaque Config.freeState : Nat → Machine.State

end Sys2Proof
end

