-- ==== Sys2Proof/Machine/Flags.lean ====
section
/-!
DEFINITION. The status register: the cause codes (R231), its 64-bit value (R25, R26), and the ways it is written (R28, R232,
R236). The unit has no arithmetic flags (R33).
-/

namespace Sys2Proof.Machine

/-- The error causes of R231. -/
inductive ErrCause where
  | illegal | range | noncanon
deriving DecidableEq, Repr

/-- The cause code (R231). -/
def ErrCause.code : ErrCause → BitVec 4
  | .illegal => 1
  | .range => 2
  | .noncanon => 3

/-- The 64-bit value of STATUS (R25): ECMD in 63:32, zeros in 31:8, ECODE in 7:4, zeros in 3:2, ERR in 1, BUSY in 0. -/
def Status.word (st : Status) : Word :=
  st.ecmd ++ (0 : BitVec 24) ++ st.ecode ++ (0 : BitVec 2) ++ BitVec.ofBool st.err ++ BitVec.ofBool st.busy

/-- The error is recorded: ERR, ECODE and ECMD are written together (R30, R31, R232). -/
def Status.record (st : Status) (e : ErrCause) (cmd : CmdWord) : Status :=
  { st with err := true, ecode := e.code, ecmd := cmd }

/-- The error is cleared: ERR, ECODE and ECMD become 0 (R214). -/
def Status.clear (st : Status) : Status := { st with err := false, ecode := 0, ecmd := 0 }

/-- BUSY is set or cleared (R28). -/
def Status.setBusy (st : Status) (b : Bool) : Status := { st with busy := b }

end Sys2Proof.Machine
end

