-- ==== Sys2Proof/Machine/Operands.lean ====
section
/-!
DEFINITION. Operands: reading and writing state registers (R11, R23, R68), the operand forms of the commands, and the operand
checks of R231, in the priority of R234. Every access to a register goes through here; no register is hard-wired (R23).
-/

namespace Sys2Proof.Machine

/-- `S[i]` (R11). -/
def State.reg (s : State) (i : RegIdx) : Word := s.regs[i]

/-- `S[i] <- v` (R11): one whole register (R68). -/
def State.setReg (s : State) (i : RegIdx) (v : Word) : State := { s with regs := s.regs.set i v }

/-- `S <- V` with V the result of a whole-state command: all 16 registers at once (R11, R68), and the working state that R196
writes them from. -/
def State.commit (s : State) (V : Elems) : State := { s with regs := V, work := V }

/-- No command is in progress (R41). -/
def State.isIdle (s : State) : Bool := s.ph == .idle

/-- The round index of ARC and ROUND as a round 0..4; `none` for 5, 6 and 7 (R84, R87). -/
def roundIndex? (r : Fin 8) : Option (Fin 5) := if h : r.val < 5 then some ⟨r.val, h⟩ else none

/-- WRS (R211): the data word must be canonical. -/
def wrsCheck (v : Word) : Option ErrCause := if P ≤ v.toNat then some .noncanon else none

/-- LUT (R141): the operand must be a byte value. -/
def lutCheck (b : Word) : Option ErrCause := if 256 ≤ b.toNat then some .range else none

/-- BYTE (R123): the operand must be a 32-bit limb. -/
def byteCheck (l : Word) : Option ErrCause := if 2 ^ 32 ≤ l.toNat then some .range else none

/-- FROMLIMBS (R122): both operands must be 32-bit limbs, and then the composed value canonical (R234). -/
def fromlimbsCheck (h l : Word) : Option ErrCause :=
  if 2 ^ 32 ≤ h.toNat ∨ 2 ^ 32 ≤ l.toNat then some .range
  else if P ≤ h.toNat * 2 ^ 32 + l.toNat then some .noncanon
  else none

/-- ARC and ROUND (R87, R231): the round index must be at most 4. The decoder lets no other through. -/
def roundCheck (r : Fin 8) : Option ErrCause := if 4 < r.val then some .illegal else none

/-- The operand check of a command, "before any write and before BUSY rises" (R238): the error it raises, if any (R231). -/
def operandCheck (i : Instr) (s : State) : Option ErrCause :=
  match i with
  | .wrs _ => wrsCheck s.cmdData
  | .lut _ rs1 => lutCheck (s.reg rs1)
  | .byte _ rs1 _ => byteCheck (s.reg rs1)
  | .fromlimbs _ rs1 rs2 => fromlimbsCheck (s.reg rs1) (s.reg rs2)
  | .arc r => roundCheck r
  | .round r => roundCheck r
  | .nop | .rds _ | .rdstat | .clrerr => none
  | .fadd _ _ _ | .fmul _ _ _ | .limbhi _ _ | .limblo _ _ => none
  | .sbl _ _ | .sbp _ _ | .sbox | .mds | .perm => none

end Sys2Proof.Machine
end

