-- ==== Sys2Proof/Machine/Ops.lean ====
section
/-!
DEFINITION. The shared operations of the commands: raising an error, the unit's one exception (R232), and leaving it (R214,
R236); the fail-fast rule (R235); the response port (R35); accepting a command (R265); the edges at which nothing is accepted
(R246, R260, R261).
-/

namespace Sys2Proof.Machine

/-- `raise E(cmd)` (R232): with ERR = 0 the error is recorded, with ERR = 1 nothing happens (R237). No register of S is
written and no response is produced. The word recorded is `encode` of the command, which is the word it was decoded from
(DEDUCED, log 13). -/
def State.raise (s : State) (e : ErrCause) (cmd : CmdWord) : State :=
  if s.status.err then s else { s with status := s.status.record e cmd }

/-- Error exit (R214, R236): ERR, ECODE and ECMD become 0. -/
def State.clearError (s : State) : State := { s with status := s.status.clear }

/-- An illegal command word (R86, R87): E_ILLEGAL with that word, or dropped while ERR = 1 (R235). -/
def State.illegalCommand (s : State) (w : CmdWord) : State := s.raise .illegal w

/-- The fail-fast rule (R235): while ERR = 1 the command is dropped, otherwise the state becomes `s'`. -/
def State.unlessError (s s' : State) : Host.Outcome State Fault Refusal := .next (if s.status.err then s else s')

/-- An operand check (R231, R238): its error is raised with the command's word, otherwise the state becomes `s'`. -/
def State.checked (s : State) (check : Option ErrCause) (cmd : CmdWord) (s' : State) : State :=
  match check with
  | some e => s.raise e cmd
  | none => s'

/-- The operand check of a command at its accepting edge, "before any write and before BUSY rises" (R238): its error is recorded, or
nothing happens (R231, R232). -/
def State.checkOperands (s : State) (i : Instr) : State := s.checked (operandCheck i s) (encode i) s

/-- `respond(v)` (R11, R35). -/
def State.respond (s : State) (v : Word) : State := { s with rsp := some v }

/-- `RND <- r; last <- l` (R196). -/
def State.schedule (s : State) (r l : Fin 5) : State := { s with rnd := r, last := l }

/-- One clock cycle ends: the response pulse lasts exactly one cycle (R267), and the free values are new. -/
def State.endCycle (s : State) : State := { s with rsp := none, freeIdx := s.freeIdx + 1 }

/-- The accepting edge (R265): the command word and its data word are sampled. -/
def State.accept (s : State) (w : CmdWord) (d : Word) : State := { s.endCycle with cmd := w, cmdData := d }

/-- A reset edge (R261, R262): every piece of state takes its reset value, and a command in progress is abandoned. What the
host does next and the free index are not the unit's. -/
def State.resetEdge (s : State) : State := { State.reset with host := s.host, freeIdx := s.freeIdx + 1 }

/-- The clock stops and starts again (R246, U18; DESIGN CHOICE, log 5): with `CLOCK_STOP_RETAINS` nothing changes, without it the
unit holds free values in everything, until it is written or reset. -/
def State.clockStopped (s : State) : State :=
  if Config.clockStopRetains then { s with freeIdx := s.freeIdx + 1 }
  else { Config.freeState s.freeIdx with host := s.host, freeIdx := s.freeIdx + 1 }

end Sys2Proof.Machine
end

