-- ==== Sys2Proof/Machine/FieldArithmetic.lean ====
section
/-!
DEFINITION. The field arithmetic commands (40_field_arithmetic.md §3): FADD, FMUL, LIMBHI, LIMBLO, FROMLIMBS, BYTE. Each reads its
sources, writes one register, and is dropped while ERR = 1 (R235).
-/

namespace Sys2Proof.Machine

/-- FADD (R118): `S[rd] <- fadd(S[rs1], S[rs2])`. -/
def execFadd (rd rs1 rs2 : RegIdx) (s : State) : Host.Outcome State Fault Refusal :=
  s.unlessError (s.setReg rd (fadd (s.reg rs1) (s.reg rs2)))

/-- FMUL (R119): `S[rd] <- fmul(S[rs1], S[rs2])`. -/
def execFmul (rd rs1 rs2 : RegIdx) (s : State) : Host.Outcome State Fault Refusal :=
  s.unlessError (s.setReg rd (fmul (s.reg rs1) (s.reg rs2)))

/-- LIMBHI (R120): `S[rd] <- zext_64(hi)`. -/
def execLimbhi (rd rs1 : RegIdx) (s : State) : Host.Outcome State Fault Refusal :=
  s.unlessError (s.setReg rd ((toLimbs (s.reg rs1)).1.setWidth 64))

/-- LIMBLO (R121): `S[rd] <- zext_64(lo)`. -/
def execLimblo (rd rs1 : RegIdx) (s : State) : Host.Outcome State Fault Refusal :=
  s.unlessError (s.setReg rd ((toLimbs (s.reg rs1)).2.setWidth 64))

/-- FROMLIMBS (R122): `S[rd] <- from_limbs(S[rs1], S[rs2])`; E_RANGE when one is no 32-bit limb, then E_NONCANON when the
composed value is not canonical (R234). -/
def execFromlimbs (rd rs1 rs2 : RegIdx) (s : State) : Host.Outcome State Fault Refusal :=
  s.unlessError (s.checked (fromlimbsCheck (s.reg rs1) (s.reg rs2)) (encode (.fromlimbs rd rs1 rs2))
    (s.setReg rd (fromLimbs ((s.reg rs1).setWidth 32) ((s.reg rs2).setWidth 32))))

/-- BYTE (R123): `S[rd] <- zext_64(b_k)` of the limb in `S[rs1]`; E_RANGE when it is no 32-bit limb. -/
def execByte (rd rs1 : RegIdx) (k : Fin 4) (s : State) : Host.Outcome State Fault Refusal :=
  s.unlessError (s.checked (byteCheck (s.reg rs1)) (encode (.byte rd rs1 k))
    (s.setReg rd ((toBytes ((s.reg rs1).setWidth 32))[k].setWidth 64)))

end Sys2Proof.Machine
end

