-- ==== Sys2Proof/Machine/HostControl.lean ====
section
/-!
DEFINITION. The host transfer and control commands (44_host_and_control.md): NOP, WRS, RDS, RDSTAT, CLRERR. NOP, RDS, RDSTAT and
CLRERR execute whatever ERR is; WRS is dropped while ERR = 1 (R235).
-/

namespace Sys2Proof.Machine

/-- NOP (R210): nothing. -/
def execNop (s : State) : Host.Outcome State Fault Refusal := .next s

/-- WRS (R211): `S[rd] <- cmd_data`, E_NONCANON when it is not canonical. -/
def execWrs (rd : RegIdx) (s : State) : Host.Outcome State Fault Refusal :=
  s.unlessError (s.checked (wrsCheck s.cmdData) (encode (.wrs rd)) (s.setReg rd s.cmdData))

/-- RDS (R212): `respond(S[rs1])`. -/
def execRds (rs1 : RegIdx) (s : State) : Host.Outcome State Fault Refusal := .next (s.respond (s.reg rs1))

/-- RDSTAT (R213): `respond(STATUS)`. -/
def execRdstat (s : State) : Host.Outcome State Fault Refusal := .next (s.respond s.status.word)

/-- CLRERR (R214): ERR, ECODE and ECMD become 0. -/
def execClrerr (s : State) : Host.Outcome State Fault Refusal := .next s.clearError

end Sys2Proof.Machine
end

