-- ==== Sys2Proof/Machine/Layers.lean ====
section
/-!
DEFINITION. The functions of the constant stores and of the three layers, each with the ROM contents as an argument (R9): the
lookup and the Split-and-Lookup S-box (R140, R142), the substitution layer (R148), the circulant product (R170, R171), the
constant addition (R190), the round (R192) and the permutation (R194).
-/

namespace Sys2Proof.Machine

/-! ## The constant stores -/

/-- `lookup(b) = LUT[b]` (R140). -/
def lookup (rom : Rom) (b : Byte) : Byte := rom.lut b

/-- `MDS_COEFF[k]` as a 64-bit word (R38). -/
def coeff (rom : Rom) (k : Fin 16) : Word := BitVec.ofNat 64 (rom.mdsCoeff k).val

/-- The ROM entry of `RC[r][i]`: entry `16*r + i` (R39, R197). -/
def rcEntry (r : Fin 5) (i : RegIdx) : Fin 80 := ⟨16 * r.val + i.val, by omega⟩

/-- `RC[r][i]` as a 64-bit word (R39). -/
def rc (rom : Rom) (r : Fin 5) (i : RegIdx) : Word := BitVec.ofNat 64 (rom.rcFlat (rcEntry r i)).val

/-! ## The Split-and-Lookup S-box -/

/-- `half_sbox(h)` (R142): the first division by 256 leaves the low byte, the second, of the first quotient, the high byte;
what is left (bits 31:16 of the half) is discarded. -/
def halfSbox (rom : Rom) (h : Limb) : Limb :=
  let q1 := h.toNat / 256
  let lowByte : Byte := BitVec.ofNat 8 (h.toNat % 256)
  let highByte : Byte := BitVec.ofNat 8 (q1 % 256)
  BitVec.ofNat 32 ((lookup rom highByte).toNat * 256 + (lookup rom lowByte).toNat)

/-- `lookup_sbox(a)` (R142). -/
def lookupSbox (rom : Rom) (a : Word) : Word :=
  fromLimbs (halfSbox rom (toLimbs a).1) (halfSbox rom (toLimbs a).2)

/-! ## The layers -/

/-- `sbox_layer(V)` (R148): positions 0-3 the Split-and-Lookup S-box, positions 4-15 the Power S-box. -/
def sboxLayer (rom : Rom) (V : Elems) : Elems :=
  tabulate fun i => if i.val < 4 then lookupSbox rom V[i] else fpow7 V[i]

/-- The positions 0..15 in their order. -/
def positions : List RegIdx := [0, 1, 2, 3, 4, 5, 6, 7, 8, 9, 10, 11, 12, 13, 14, 15]

/-- Row `i` of the product, R172's loop: `acc <- fadd(acc, fmul(MDS_COEFF[(j - i) mod 16], V[j]))` for j = 0..15. -/
def mdsRow (rom : Rom) (V : Elems) (i : RegIdx) : Word :=
  positions.foldl (fun acc j => fadd acc (fmul (coeff rom (j - i)) V[j])) 0

/-- `mds_multiply(V)` (R171). -/
def mdsMultiply (rom : Rom) (V : Elems) : Elems := tabulate fun i => mdsRow rom V i

/-- `add_rc(V, r)` (R190). -/
def addRc (rom : Rom) (V : Elems) (r : Fin 5) : Elems := tabulate fun i => fadd V[i] (rc rom r i)

/-- `round(V, r) = add_rc(mds_multiply(sbox_layer(V)), r)` (R192). -/
def roundFn (rom : Rom) (V : Elems) (r : Fin 5) : Elems := addRc rom (mdsMultiply rom (sboxLayer rom V)) r

/-- `permute(V)`: the rounds 0, 1, 2, 3, 4 in that order (R194). -/
def permute (rom : Rom) (V : Elems) : Elems :=
  roundFn rom (roundFn rom (roundFn rom (roundFn rom (roundFn rom V 0) 1) 2) 3) 4

end Sys2Proof.Machine
end

