-- ==== Sys2Proof/Machine/Lookup.lean ====
section
/-!
DEFINITION. The lookup and S-box commands (41_lookup_and_sboxes.md): LUT, SBL, SBP, SBOX. Each is dropped while ERR = 1 (R235).
-/

namespace Sys2Proof.Machine

/-- LUT (R141): `S[rd] <- zext_64(LUT[S[rs1]])`; E_RANGE when the operand is no byte value. -/
def execLut (rd rs1 : RegIdx) (s : State) : Host.Outcome State Fault Refusal :=
  s.unlessError (s.checked (lutCheck (s.reg rs1)) (encode (.lut rd rs1))
    (s.setReg rd ((lookup Config.rom ((s.reg rs1).setWidth 8)).setWidth 64)))

/-- SBL (R144): `S[rd] <- lookup_sbox(S[rs1])`. -/
def execSbl (rd rs1 : RegIdx) (s : State) : Host.Outcome State Fault Refusal :=
  s.unlessError (s.setReg rd (lookupSbox Config.rom (s.reg rs1)))

/-- SBP (R147): `S[rd] <- fpow7(S[rs1])`. -/
def execSbp (rd rs1 : RegIdx) (s : State) : Host.Outcome State Fault Refusal :=
  s.unlessError (s.setReg rd (fpow7 (s.reg rs1)))

/-- SBOX (R149): `S <- sbox_layer(S)`, all 16 written at once. -/
def execSbox (s : State) : Host.Outcome State Fault Refusal :=
  s.unlessError (s.commit (sboxLayer Config.rom s.regs))

end Sys2Proof.Machine
end

