-- ==== Sys2Proof/Machine/Rounds.lean ====
section
/-!
DEFINITION. The linear layer (42_mds.md) and the rounds (43_rounds_and_permutation.md): MDS, ARC, ROUND, PERM. Each is dropped while
ERR = 1 (R235). ARC, ROUND and PERM leave RND and `last` as the sequencer of R196 leaves them (DEDUCED, log 11).
-/

namespace Sys2Proof.Machine

/-- MDS (R172): `S <- mds_multiply(S)`, all 16 read before any is written. -/
def execMds (s : State) : Host.Outcome State Fault Refusal :=
  s.unlessError (s.commit (mdsMultiply Config.rom s.regs))

/-- ARC (R191): `S <- add_rc(S, r)`; a round index of 5, 6 or 7 is E_ILLEGAL. -/
def execArc (r : Fin 8) (s : State) : Host.Outcome State Fault Refusal :=
  s.unlessError
    (match roundIndex? r with
     | some k => (s.schedule k k).commit (addRc Config.rom s.regs k)
     | none => s.raise .illegal (encode (.arc r)))

/-- ROUND (R193): `S <- round(S, r)`, all 16 written at once at the end; a round index of 5, 6 or 7 is E_ILLEGAL. -/
def execRound (r : Fin 8) (s : State) : Host.Outcome State Fault Refusal :=
  s.unlessError
    (match roundIndex? r with
     | some k => (s.schedule k k).commit (roundFn Config.rom s.regs k)
     | none => s.raise .illegal (encode (.round r)))

/-- PERM (R195): `S <- permute(S)`, written once, at the end. RND ends at 4, the last round's index (R196). -/
def execPerm (s : State) : Host.Outcome State Fault Refusal :=
  s.unlessError ((s.schedule 4 4).commit (permute Config.rom s.regs))

end Sys2Proof.Machine
end

