-- ==== Sys2Proof/Machine/Dispatch.lean ====
section
/-! DEFINITION. The meaning of every command, one arm per constructor of Instr (R85). -/

namespace Sys2Proof.Machine

def exec (i : Instr) (s : State) : Host.Outcome State Fault Refusal :=
  match i with
  -- host transfer and control (44_host_and_control.md)
  | .nop => Sys2Proof.Machine.execNop s
  | .wrs rd => Sys2Proof.Machine.execWrs rd s
  | .rds rs1 => Sys2Proof.Machine.execRds rs1 s
  | .rdstat => Sys2Proof.Machine.execRdstat s
  | .clrerr => Sys2Proof.Machine.execClrerr s
  -- field arithmetic (40_field_arithmetic.md)
  | .fadd rd rs1 rs2 => Sys2Proof.Machine.execFadd rd rs1 rs2 s
  | .fmul rd rs1 rs2 => Sys2Proof.Machine.execFmul rd rs1 rs2 s
  | .limbhi rd rs1 => Sys2Proof.Machine.execLimbhi rd rs1 s
  | .limblo rd rs1 => Sys2Proof.Machine.execLimblo rd rs1 s
  | .fromlimbs rd rs1 rs2 => Sys2Proof.Machine.execFromlimbs rd rs1 rs2 s
  | .byte rd rs1 k => Sys2Proof.Machine.execByte rd rs1 k s
  -- lookup and S-boxes (41_lookup_and_sboxes.md)
  | .lut rd rs1 => Sys2Proof.Machine.execLut rd rs1 s
  | .sbl rd rs1 => Sys2Proof.Machine.execSbl rd rs1 s
  | .sbp rd rs1 => Sys2Proof.Machine.execSbp rd rs1 s
  | .sbox => Sys2Proof.Machine.execSbox s
  -- linear layer and rounds (42_mds.md, 43_rounds_and_permutation.md)
  | .mds => Sys2Proof.Machine.execMds s
  | .arc r => Sys2Proof.Machine.execArc r s
  | .round r => Sys2Proof.Machine.execRound r s
  | .perm => Sys2Proof.Machine.execPerm s

end Sys2Proof.Machine
end

