-- ==== Sys2Proof/Machine/Sequencer.lean ====
section
/-!
DEFINITION. The sequencer (R15, R41, R42, R43, R196, R197): the phases of a multi-cycle command. It is started at the accepting
edge, makes one transition of R196 at a time, and writes the command's result when it leaves DONE. The constant stores it
reads are the unit's (R197).
-/

namespace Sys2Proof.Machine

/-- Whether a command runs through the phases of R196 on the working state and writes all 16 registers from it (R68, R196). -/
def wholeState : Instr → Bool
  | .sbox | .mds | .arc _ | .round _ | .perm => true
  | .nop | .wrs _ | .rds _ | .rdstat | .clrerr => false
  | .fadd _ _ _ | .fmul _ _ _ | .limbhi _ _ | .limblo _ _ | .fromlimbs _ _ _ | .byte _ _ _ => false
  | .lut _ _ | .sbl _ _ | .sbp _ _ => false

/-- Whether the phases follow one another, SUB to LIN to ADDRC (R196): "SBOX, MDS and ARC commands use the SUB, LIN or ADDRC
phase alone, then DONE". -/
def chainsPhases : Instr → Bool
  | .round _ | .perm => true
  | .nop | .wrs _ | .rds _ | .rdstat | .clrerr => false
  | .fadd _ _ _ | .fmul _ _ _ | .limbhi _ _ | .limblo _ _ | .fromlimbs _ _ _ | .byte _ _ _ => false
  | .lut _ _ | .sbl _ _ | .sbp _ _ | .sbox | .mds | .arc _ => false

/-- Whether the command word sampled last chains its phases. -/
def State.chains (s : State) : Bool :=
  match decode s.cmd with
  | .cmd i => chainsPhases i
  | .illegal _ => false

/-- The state an outcome goes on in; `s` for an outcome that does not go on (there is none: R36). -/
def nextOr (s : State) : Host.Outcome State Fault Refusal → State
  | .next t => t
  | .fault _ => s
  | .refused _ => s

/-- BUSY rises, the phase and the cycles left are set (R28, R196, R266). -/
def State.enter (s : State) (ph : Phase) (left : Nat) : State :=
  { s with status := s.status.setBusy true, ph := ph, left := left }

/-- V <- S at the start of a whole-state command (R195, R196). -/
def State.loadWork (s : State) : State := { s with work := s.regs }

/-- `on accept` (R196) of a command with `left` busy cycles: its first phase, RND and `last`. A command on single registers waits
in DONE until it writes its result: no other phase of R41 fits it (DESIGN CHOICE, log 8). -/
def State.start (s : State) (i : Instr) (left : Nat) : State :=
  match i with
  | .sbox => s.loadWork.enter .sub left
  | .mds => s.loadWork.enter .lin left
  | .arc r =>
    match roundIndex? r with
    | some k => ((s.schedule k k).loadWork).enter .addrc left
    | none => s
  | .round r =>
    match roundIndex? r with
    | some k => ((s.schedule k k).loadWork).enter .sub left
    | none => s
  | .perm => ((s.schedule 0 4).loadWork).enter .sub left
  | .nop | .wrs _ | .rds _ | .rdstat | .clrerr => s.enter .done left
  | .fadd _ _ _ | .fmul _ _ _ | .limbhi _ _ | .limblo _ _ | .fromlimbs _ _ _ | .byte _ _ _ => s.enter .done left
  | .lut _ _ | .sbl _ _ | .sbp _ _ => s.enter .done left

/-- Leaving DONE (R196: `S <- V; PH <- IDLE`): the command's result is written, BUSY falls (R28, R266). A command that recorded an
error at its operand check has no result: with ERR = 1 its meaning writes nothing (R232). -/
def State.finish (s : State) : State :=
  let t := { s with status := s.status.setBusy false, ph := .idle, left := 0 }
  match decode s.cmd with
  | .cmd i => if wholeState i then { t with regs := t.work } else nextOr t (exec i t)
  | .illegal _ => t

/-- One transition of R196. -/
def State.advance (s : State) : State :=
  match s.ph with
  | .idle => s
  | .sub => { s with work := sboxLayer Config.rom s.work, ph := if s.chains then .lin else .done }
  | .lin => { s with work := mdsMultiply Config.rom s.work, ph := if s.chains then .addrc else .done }
  | .addrc =>
    if s.rnd = s.last then { s with work := addRc Config.rom s.work s.rnd, ph := .done }
    else { s with work := addRc Config.rom s.work s.rnd, rnd := s.rnd + 1, ph := .sub }
  | .done => s.finish

/-- A transition of R196 to another phase that computes a layer. DONE is not entered by it (R41: `State.writeCycle`). -/
def State.advanceWithin (s : State) : State :=
  let t := s.advance
  if t.ph = .done ∨ t.ph = .idle then s else t

/-- At most `n` transitions, until DONE. -/
def State.toDone : Nat → State → State
  | 0, s => s
  | n + 1, s => if s.ph = .done ∨ s.ph = .idle then s else State.toDone n s.advance

/-- "DONE for the cycle in which the result is written" (R41): the last busy cycle of a command is DONE. Whatever the phases before it
have left to do is done when it begins; five rounds of three phases are 15 transitions at most. -/
def State.writeCycle (s : State) : State := if s.left = 1 then s.toDone 15 else s

/-- At most `n` transitions, until IDLE. -/
def State.drain : Nat → State → State
  | 0, s => s
  | n + 1, s => if s.ph = .idle then s else State.drain n s.advance

/-- The sequencer carries the command in progress, if there is one, to its end: five rounds of three phases and DONE are 16
transitions at most. -/
def State.settle (s : State) : State := s.drain 16

end Sys2Proof.Machine
end

