-- ==== Sys2Proof/Machine/Step.lean ====
section
/-!
DEFINITION. One architectural step (R16, R36, R73, R271): what the host does next takes effect, a command atomically and in
order. A command in progress is carried to its end first, because the unit accepts none before it has written its result
(R266, R269); a reset abandons it (R262). Two levels over one State: DESIGN CHOICE (log 1). And the interface's placing of a
command where the next step takes it.
-/

namespace Sys2Proof.Machine

/-- The effect of an accepted command word (R36, R89): the meaning of the command it decodes to, or E_ILLEGAL (R87). -/
def State.runWord (s : State) (w : CmdWord) : Host.Outcome State Fault Refusal :=
  match decode w with
  | .cmd i => exec i s
  | .illegal _ => .next (s.illegalCommand w)

/-- One architectural step. With nothing from the host the unit holds its state (R246). -/
def step (s : State) : Host.Outcome State Fault Refusal :=
  match s.host with
  | [] => .next s.settle.endCycle
  | .idle :: rest => .next { s.settle.endCycle with host := rest }
  | .reset :: rest => .next { s.resetEdge with host := rest }
  | .stopClock :: rest => .next { s.clockStopped with host := rest }
  | .command w d :: rest => State.runWord { s.settle.accept w d with host := rest } w

/-- The host presents next the command whose bits are the first `nbits` of `w`: the command word is bits 31:0, the data word the
64 bits above it, and the bits above `nbits` are zero (R80, R82; log 2). -/
def State.withFetchWord (s : State) (nbits w : Nat) : State :=
  { s with host := .command (BitVec.ofNat 32 (w % 2 ^ nbits)) (BitVec.ofNat 64 (w % 2 ^ nbits / 2 ^ 32)) :: s.host }

end Sys2Proof.Machine
end

