-- ==== Sys2Proof/Machine/Assembler.lean ====
section
/-!
DEFINITION. The assembly forms of R90 and the pseudo-instructions of R91 (30_encoding.md). A line is held as its mnemonic with
operands as plain numbers (DESIGN CHOICE, log 12), so that the assembler's refusals are there to be stated: a register outside s0..s15, a K
outside 0..3, an R outside 0..4, a V outside [0, 2^64).
-/

namespace Sys2Proof.Machine

/-- One line of assembly (R90): destination first, then sources, then immediate. -/
inductive AsmLine where
  | nop
  | wrs (d v : Nat)
  | rds (a : Nat)
  | rdstat
  | clrerr
  | fadd (d a b : Nat)
  | fmul (d a b : Nat)
  | limbhi (d a : Nat)
  | limblo (d a : Nat)
  | fromlimbs (d h l : Nat)
  | byte (d a k : Nat)
  | lut (d a : Nat)
  | sbl (d a : Nat)
  | sbp (d a : Nat)
  | sbox
  | mds
  | arc (r : Nat)
  | round (r : Nat)
  | perm
deriving DecidableEq, Repr

/-- A register operand: "An assembler refuses a register name outside s0..s15" (R90). -/
def asmReg (n : Nat) : Option RegIdx := if h : n < 16 then some ⟨n, h⟩ else none

/-- A byte index operand: refused outside 0..3 (R90). -/
def asmByteIndex (n : Nat) : Option (Fin 4) := if h : n < 4 then some ⟨n, h⟩ else none

/-- A round index operand: refused outside 0..4 (R90). -/
def asmRound (n : Nat) : Option (Fin 8) := if h : n < 5 then some ⟨n, by omega⟩ else none

/-- The data word of WRS: refused outside [0, 2^64), not refused in [P, 2^64) (R90). -/
def asmData (n : Nat) : Option Word := if n < 2 ^ 64 then some (BitVec.ofNat 64 n) else none

/-- The command of a line and its data word (R90). The data word of a command other than WRS is ignored by the unit (R82) and is 0
here. -/
def AsmLine.assemble : AsmLine → Option (Instr × Word)
  | .nop => some (.nop, 0)
  | .wrs d v => do return (.wrs (← asmReg d), ← asmData v)
  | .rds a => do return (.rds (← asmReg a), 0)
  | .rdstat => some (.rdstat, 0)
  | .clrerr => some (.clrerr, 0)
  | .fadd d a b => do return (.fadd (← asmReg d) (← asmReg a) (← asmReg b), 0)
  | .fmul d a b => do return (.fmul (← asmReg d) (← asmReg a) (← asmReg b), 0)
  | .limbhi d a => do return (.limbhi (← asmReg d) (← asmReg a), 0)
  | .limblo d a => do return (.limblo (← asmReg d) (← asmReg a), 0)
  | .fromlimbs d h l => do return (.fromlimbs (← asmReg d) (← asmReg h) (← asmReg l), 0)
  | .byte d a k => do return (.byte (← asmReg d) (← asmReg a) (← asmByteIndex k), 0)
  | .lut d a => do return (.lut (← asmReg d) (← asmReg a), 0)
  | .sbl d a => do return (.sbl (← asmReg d) (← asmReg a), 0)
  | .sbp d a => do return (.sbp (← asmReg d) (← asmReg a), 0)
  | .sbox => some (.sbox, 0)
  | .mds => some (.mds, 0)
  | .arc r => do return (.arc (← asmRound r), 0)
  | .round r => do return (.round (← asmRound r), 0)
  | .perm => some (.perm, 0)

/-- What the host presents for a line: the command word (R81) and the data word. -/
def AsmLine.hostAct (l : AsmLine) : Option HostAct := l.assemble.map fun (i, d) => .command (encode i) d

/-- What the host presents for a list of lines; nothing if one is refused. -/
def hostActs (ls : List AsmLine) : Option (List HostAct) := ls.mapM AsmLine.hostAct

/-- A register's name (R90). -/
def regText (n : Nat) : String := "s" ++ toString n

/-- The text of a line (R90): mnemonic in lower case, immediates in decimal. -/
def AsmLine.text : AsmLine → String
  | .nop => "nop"
  | .wrs d v => "wrs " ++ regText d ++ ", " ++ toString v
  | .rds a => "rds " ++ regText a
  | .rdstat => "rdstat"
  | .clrerr => "clrerr"
  | .fadd d a b => "fadd " ++ regText d ++ ", " ++ regText a ++ ", " ++ regText b
  | .fmul d a b => "fmul " ++ regText d ++ ", " ++ regText a ++ ", " ++ regText b
  | .limbhi d a => "limbhi " ++ regText d ++ ", " ++ regText a
  | .limblo d a => "limblo " ++ regText d ++ ", " ++ regText a
  | .fromlimbs d h l => "fromlimbs " ++ regText d ++ ", " ++ regText h ++ ", " ++ regText l
  | .byte d a k => "byte " ++ regText d ++ ", " ++ regText a ++ ", " ++ toString k
  | .lut d a => "lut " ++ regText d ++ ", " ++ regText a
  | .sbl d a => "sbl " ++ regText d ++ ", " ++ regText a
  | .sbp d a => "sbp " ++ regText d ++ ", " ++ regText a
  | .sbox => "sbox"
  | .mds => "mds"
  | .arc r => "arc " ++ toString r
  | .round r => "round " ++ toString r
  | .perm => "perm"

/-- The pseudo-instructions of R91. -/
inductive Pseudo where
  | fsq (d a : Nat)
  | fdbl (d a : Nat)
  | clr (d : Nat)
  | wrstate (v : Vector Nat 16)
  | rdstate
  | permute (v : Vector Nat 16)
  | roundSteps (r : Nat)
deriving DecidableEq, Repr

/-- `wrs s0, V0 ; ... ; wrs s15, V15`, position 0 first (R91). -/
def wrstateLines (v : Vector Nat 16) : List AsmLine := (List.finRange 16).map fun i => .wrs i.val v[i]

/-- `rds s0 ; ... ; rds s15` (R91). -/
def rdstateLines : List AsmLine := (List.finRange 16).map fun i => .rds i.val

/-- The expansions of R91. -/
def Pseudo.expand : Pseudo → List AsmLine
  | .fsq d a => [.fmul d a a]
  | .fdbl d a => [.fadd d a a]
  | .clr d => [.wrs d 0]
  | .wrstate v => wrstateLines v
  | .rdstate => rdstateLines
  | .permute v => wrstateLines v ++ [.perm] ++ rdstateLines
  | .roundSteps r => [.sbox, .mds, .arc r]

end Sys2Proof.Machine
end

