-- ==== Sys2Proof/Machine/Clock.lean ====
section
/-!
DEFINITION. The unit at one rising clock edge (R34, R260-R270): the pins the host drives, the handshake, BUSY, the latencies as
parameters, reset with its priority over everything (R241). The same State as `step`; the host's pins are an argument here, and
the field `host` is not read.
-/

namespace Sys2Proof.Machine

/-- The inputs of R34 sampled at one edge. -/
structure Pins where
  rst      : Bool
  cmdValid : Bool
  cmd      : CmdWord
  cmdData  : Word
deriving DecidableEq, Repr

/-- `cmd_ready = 1` exactly when `rst = 0` and no command is in progress (R266). -/
def cmdReady (p : Pins) (s : State) : Bool := !p.rst && s.isIdle

/-- `rsp_valid` (R34, R35): 0 while `rst` = 1 (R260). -/
def rspValid (p : Pins) (s : State) : Bool := !p.rst && s.rsp.isSome

/-- `rsp_data` (R34, R35): the response, and a free value while `rsp_valid` = 0 (U6; log 4). -/
def rspData (p : Pins) (s : State) : Word :=
  if p.rst then Config.freeRspData s.freeIdx else s.rsp.getD (Config.freeRspData s.freeIdx)

/-- The `busy` output (R28, R34). -/
def busyOut (s : State) : Bool := s.status.busy

/-- The `err` output (R29, R34). -/
def errOut (s : State) : Bool := s.status.err

/-- The latency of a command (R270). -/
def latency (t : Timing) : Instr → Nat
  | .nop | .wrs _ | .rds _ | .rdstat | .clrerr => 1
  | .fadd _ _ _ | .limbhi _ _ | .limblo _ _ | .fromlimbs _ _ _ | .byte _ _ _ | .lut _ _ | .sbl _ _ => t.lat .simple
  | .fmul _ _ _ => t.lat .mul
  | .sbp _ _ => t.lat .pow
  | .sbox => t.lat .sbox
  | .mds => t.lat .mds
  | .arc _ => t.lat .arc
  | .round _ => t.lat .round
  | .perm => t.lat .perm

/-- Whether an accepted command stays in progress after its accepting edge: its latency exceeds one cycle (R266, R271) and it is not
dropped (R266: a dropped command has latency 1). A command that fails its operand check stays in progress too: its latency
depends on no data (D40). -/
def staysBusy (t : Timing) (i : Instr) (s : State) : Bool := decide (1 < latency t i) && !s.status.err

/-- The accepting edge (R265): a single-cycle command completes at it (R266); a command with latency L > 1 is started, with L - 1
busy cycles after it (R266; DEDUCED, log 10), and an error of its operands is recorded now, before BUSY rises (R238; DEDUCED,
log 17). A command with one busy cycle is in DONE in it (R41). An illegal word, to which R270 gives no latency, ends at it with its error recorded (DESIGN CHOICE, log 15). -/
def State.acceptEdge (t : Timing) (w : CmdWord) (d : Word) (s : State) : State :=
  let a := s.accept w d
  match decode w with
  | .illegal _ => a.illegalCommand w
  | .cmd i => if staysBusy t i a then ((a.checkOperands i).start i (latency t i - 1)).writeCycle else nextOr a (exec i a)

/-- An edge while a command is in progress. At the end of its last busy cycle, in which PH is DONE, the result is written (R41, R196,
R266). Before that the sequencer goes on to another phase if the unit's pace says so (log 9), and the edge that begins the last busy
cycle takes it to DONE (R41). -/
def State.busyEdge (t : Timing) (s : State) : State :=
  if s.left ≤ 1 then s.endCycle.settle
  else
    let u := if t.pace s.cmd s.left then s.endCycle.advanceWithin else s.endCycle
    State.writeCycle { u with left := s.left - 1 }

/-- One rising edge of `clk`. -/
def clock (t : Timing) (p : Pins) (s : State) : State :=
  if p.rst then s.resetEdge
  else if s.isIdle then (if p.cmdValid then s.acceptEdge t p.cmd p.cmdData else s.endCycle)
  else s.busyEdge t

/-- The edges at which the host drives the pins of a list, in order. -/
def clocks (t : Timing) : List Pins → State → State
  | [], s => s
  | p :: ps, s => clocks t ps (clock t p s)

/-- The reference latencies of R270. -/
def referenceLatency : LatParam → Nat
  | .simple => 1
  | .mul => 3
  | .pow => 12
  | .sbox => 12
  | .mds => 18
  | .arc => 1
  | .round => 31
  | .perm => 155

/-- Whether the edge that sees `n` busy cycles left ends a phase of the reference design: in each round, 31 cycles long, SUB ends with
cycle 12, LIN with cycle 30 and ADDRC with cycle 31 (R196, R270). The accepting edge is counted as a cycle (log 10) and so is DONE,
the last one (R41): R270 gives DONE no cycle beside those of the phases (31 = 12 + 18 + 1), and both are taken from the 12 cycles of
the first SUB (DESIGN CHOICE, log 16). -/
def referencePace (w : CmdWord) (n : Nat) : Bool :=
  match decode w with
  | .cmd .perm => [12, 30, 0].contains ((157 - n) % 31)
  | .cmd (.round _) => [12, 30].contains (33 - n)
  | _ => false

/-- The spec's reference design (R270). -/
def referenceTiming : Timing := { lat := referenceLatency, pace := referencePace }

end Sys2Proof.Machine
end

