-- ==== Sys2Proof/Safety.lean ====
section
/-!
DEFINITION. The words the claims are stated in: what a good state is (R21, R28, R32), what a command may change (the frames), which
command words are legal, field by field (R84, R85, R86, R87: written from those rules and not from the match and mask table of
R92), what each word raises (R231, R234), and which assembly operands are in range (R90).
-/

namespace Sys2Proof.Machine

/-! ## Good states -/

/-- Every element of the vector is canonical (R21). -/
abbrev CanonVec (V : Elems) : Prop := ∀ i : RegIdx, canon V[i]

/-- "ERR = 0 implies ECODE = 0 and ECMD = 0; ERR = 1 implies ECODE in 1, 2, 3" (R32). -/
abbrev Status.Legal (st : Status) : Prop :=
  (st.err = false → st.ecode = 0 ∧ st.ecmd = 0) ∧ (st.err = true → st.ecode = 1 ∨ st.ecode = 2 ∨ st.ecode = 3)

/-- The invariant of the unit: every register and every working element is canonical (R21, R43), STATUS holds a legal value (R32),
BUSY is 1 exactly while a command is in progress (R28, R266), ERR is 1 during a command in progress exactly when its operand check
failed (R235, R238), and no cycles are left when none is in progress. -/
structure State.Ok (s : State) : Prop where
  regs    : CanonVec s.regs
  work    : CanonVec s.work
  status  : s.status.Legal
  busy    : s.status.busy = !s.isIdle
  started : s.isIdle = false → ∃ i : Instr, decode s.cmd = .cmd i ∧ s.status.err = (operandCheck i s).isSome
  left    : s.isIdle = true → s.left = 0

/-- The next action of the host is not a stop of the clock (R246). -/
abbrev State.clockRuns (s : State) : Prop := s.host.head? ≠ some .stopClock

/-! ## Frames -/

/-- Nothing but the register `rd` differs. -/
def State.ChangesOnlyReg (s t : State) (rd : RegIdx) : Prop :=
  (∀ j : RegIdx, j ≠ rd → t.reg j = s.reg j) ∧ t = { s with regs := t.regs }

/-- Nothing differs but the 16 registers and what the sequencer of R196 works in: V, RND and `last`. -/
def State.ChangesOnlyStateFile (s t : State) : Prop :=
  t = { s with regs := t.regs, work := t.work, rnd := t.rnd, last := t.last }

/-- The state after an error with the cause code `code` and the command word `w`: only STATUS differs, and there only ERR, ECODE
and ECMD (R232). -/
def State.withError (s : State) (code : BitVec 4) (w : CmdWord) : State :=
  { s with status := { busy := s.status.busy, err := true, ecode := code, ecmd := w } }

/-- The state in which the command word `w`, presented with the data word `d`, is executed: the two words are sampled (R265), the
response of the command before is over (R267), and what the host does after it is `rest`. -/
def State.accepted (s : State) (w : CmdWord) (d : Word) (rest : List HostAct) : State :=
  { s with cmd := w, cmdData := d, rsp := none, host := rest, freeIdx := s.freeIdx + 1 }

/-- The registers a command may write (R23). -/
def writesReg : Instr → RegIdx → Bool
  | .wrs rd, j | .fadd rd _ _, j | .fmul rd _ _, j | .limbhi rd _, j | .limblo rd _, j | .fromlimbs rd _ _, j => j == rd
  | .byte rd _ _, j | .lut rd _, j | .sbl rd _, j | .sbp rd _, j => j == rd
  | .sbox, _ | .mds, _ | .arc _, _ | .round _, _ | .perm, _ => true
  | .nop, _ | .rds _, _ | .rdstat, _ | .clrerr, _ => false

/-- The commands that execute while ERR = 1 (R235). -/
def runsInError : Instr → Bool
  | .nop | .rds _ | .rdstat | .clrerr => true
  | .wrs _ | .fadd _ _ _ | .fmul _ _ _ | .limbhi _ _ | .limblo _ _ | .fromlimbs _ _ _ | .byte _ _ _ => false
  | .lut _ _ | .sbl _ _ | .sbp _ _ | .sbox | .mds | .arc _ | .round _ | .perm => false

/-- The multi-cycle commands of R28 and R238. -/
def multiCycle : Instr → Bool
  | .fmul _ _ _ | .sbp _ _ | .sbox | .mds | .round _ | .perm => true
  | .nop | .wrs _ | .rds _ | .rdstat | .clrerr | .fadd _ _ _ | .limbhi _ _ | .limblo _ _ => false
  | .fromlimbs _ _ _ | .byte _ _ _ | .lut _ _ | .sbl _ _ | .arc _ => false

/-! ## Legal words, field by field -/

/-- The fields of R81 as numbers: `bits[hi:lo]` of R10. -/
def bitsOf (w : CmdWord) (hi lo : Nat) : Nat := w.toNat / 2 ^ lo % 2 ^ (hi - lo + 1)

/-- A legal word (R85, R86, R87): a listed opcode, every field the command does not use zero, and the immediate in its range. -/
def legalWord (w : CmdWord) : Bool :=
  let opc := bitsOf w 31 24
  let rd0 := bitsOf w 23 20 == 0
  let rs10 := bitsOf w 19 16 == 0
  let rs20 := bitsOf w 15 12 == 0
  let imm := bitsOf w 11 0
  ([0x00, 0x03, 0x04, 0x23, 0x30, 0x33].contains opc && rd0 && rs10 && rs20 && imm == 0)
    || (opc == 0x01 && rs10 && rs20 && imm == 0)
    || (opc == 0x02 && rd0 && rs20 && imm == 0)
    || ([0x10, 0x11, 0x14].contains opc && imm == 0)
    || ([0x12, 0x13, 0x20, 0x21, 0x22].contains opc && rs20 && imm == 0)
    || (opc == 0x15 && rs20 && decide (imm ≤ 3))
    || ([0x31, 0x32].contains opc && rd0 && rs10 && rs20 && decide (imm ≤ 4))

/-- The value of the register that the field at `hi:lo` of the word names. -/
def State.regAt (s : State) (w : CmdWord) (hi lo : Nat) : Nat := (s.reg (Fin.ofNat 16 (bitsOf w hi lo))).toNat

/-- The cause code a word raises with the data word `d` in the state `s`, 0 when it raises none: the table of R231 with the
priority of R234. -/
def causeCode (s : State) (w : CmdWord) (d : Word) : Nat :=
  let opc := bitsOf w 31 24
  let a := s.regAt w 19 16
  let b := s.regAt w 15 12
  if legalWord w = false then 1
  else if opc = 0x20 then (if 256 ≤ a then 2 else 0)
  else if opc = 0x15 then (if 2 ^ 32 ≤ a then 2 else 0)
  else if opc = 0x14 then (if 2 ^ 32 ≤ a ∨ 2 ^ 32 ≤ b then 2 else if P ≤ a * 2 ^ 32 + b then 3 else 0)
  else if opc = 0x01 then (if P ≤ d.toNat then 3 else 0)
  else 0

/-! ## Assembly lines -/

/-- What R90's table says a line encodes, as numbers: OPC (R85), RD, RS1, RS2, IMM, and `cmd_data`. The data of a line other than WRS
is ignored by the unit (R82) and 0 here (DESIGN CHOICE, log 12). -/
structure LineFields where
  opc  : Nat
  rd   : Nat
  rs1  : Nat
  rs2  : Nat
  imm  : Nat
  data : Nat
deriving DecidableEq, Repr

/-- The table of R90: RD = D, RS1 = A or H, RS2 = B or L, IMM = K or R, cmd_data = V. -/
def AsmLine.fields : AsmLine → LineFields
  | .nop => ⟨0x00, 0, 0, 0, 0, 0⟩
  | .wrs d v => ⟨0x01, d, 0, 0, 0, v⟩
  | .rds a => ⟨0x02, 0, a, 0, 0, 0⟩
  | .rdstat => ⟨0x03, 0, 0, 0, 0, 0⟩
  | .clrerr => ⟨0x04, 0, 0, 0, 0, 0⟩
  | .fadd d a b => ⟨0x10, d, a, b, 0, 0⟩
  | .fmul d a b => ⟨0x11, d, a, b, 0, 0⟩
  | .limbhi d a => ⟨0x12, d, a, 0, 0, 0⟩
  | .limblo d a => ⟨0x13, d, a, 0, 0, 0⟩
  | .fromlimbs d h l => ⟨0x14, d, h, l, 0, 0⟩
  | .byte d a k => ⟨0x15, d, a, 0, k, 0⟩
  | .lut d a => ⟨0x20, d, a, 0, 0, 0⟩
  | .sbl d a => ⟨0x21, d, a, 0, 0, 0⟩
  | .sbp d a => ⟨0x22, d, a, 0, 0, 0⟩
  | .sbox => ⟨0x23, 0, 0, 0, 0, 0⟩
  | .mds => ⟨0x30, 0, 0, 0, 0, 0⟩
  | .arc r => ⟨0x31, 0, 0, 0, r, 0⟩
  | .round r => ⟨0x32, 0, 0, 0, r, 0⟩
  | .perm => ⟨0x33, 0, 0, 0, 0, 0⟩

/-- The operands an assembler does not refuse (R90). -/
def AsmLine.inRange : AsmLine → Bool
  | .nop | .rdstat | .clrerr | .sbox | .mds | .perm => true
  | .wrs d v => decide (d < 16) && decide (v < 2 ^ 64)
  | .rds a => decide (a < 16)
  | .fadd d a b | .fmul d a b | .fromlimbs d a b => decide (d < 16) && decide (a < 16) && decide (b < 16)
  | .limbhi d a | .limblo d a | .lut d a | .sbl d a | .sbp d a => decide (d < 16) && decide (a < 16)
  | .byte d a k => decide (d < 16) && decide (a < 16) && decide (k < 4)
  | .arc r | .round r => decide (r < 5)

end Sys2Proof.Machine
end

