-- ==== Sys2Proof/Certificates/Slice0/Obligations.lean ====
section
/-!
DEFINITION. The statements about the unit, each from the numbered rules of spec/ (OBLIGATIONS.json gives the rules and quotes). Every
statement about a next state says that there is one.
-/

open Sys2Proof Sys2Proof.Machine

/-! ## Encoding -/

/-- Decoding the word of a well-formed command gives the command back, with every operand (R81, R85, R92). -/
def Obligations.DecodeOfEncodeIsIdentity : Prop :=
  ∀ i : Instr, i.wellFormed = true → decode (encode i) = .cmd i

/-- A word that decodes is the word of the command it decodes to, which is well formed: no bit of the word is dropped (R88). -/
def Obligations.EncodeOfDecodeIsIdentity : Prop :=
  ∀ (w : CmdWord) (i : Instr), decode w = .cmd i → i.wellFormed = true ∧ encode i = w

/-- Every word is exactly one command with legal fields, or illegal (R88); `legalWord` is the field-by-field reading of R85, R86 and
R87, and not the match and mask table the decoder uses. -/
def Obligations.EveryWordIsOneCommandOrIllegal : Prop :=
  ∀ w : CmdWord,
    if legalWord w = true then
      ∃ i : Instr, i.wellFormed = true ∧ decode w = .cmd i ∧ encode i = w ∧
        ∀ j : Instr, j.wellFormed = true → encode j = w → j = i
    else ∃ why : Illegal, decode w = .illegal why

/-- At most one row of the match and mask table fits any word (R89). -/
def Obligations.AtMostOneRowFitsAWord : Prop :=
  ∀ w : CmdWord, ∀ a ∈ rows, ∀ b ∈ rows, a.fits w = true → b.fits w = true → a = b

/-- The example words of R94 decode as the rule says. -/
def Obligations.DecoderReadsExampleWords : Prop :=
  decode 0x00000000 = .cmd .nop ∧ decode 0x01300000 = .cmd (.wrs 3) ∧ decode 0x020F0000 = .cmd (.rds 15) ∧
  decode 0x10201000 = .cmd (.fadd 2 0 1) ∧ decode 0x11300000 = .cmd (.fmul 3 0 0) ∧
  decode 0x14412000 = .cmd (.fromlimbs 4 1 2) ∧ decode 0x15500003 = .cmd (.byte 5 0 3) ∧
  decode 0x21000000 = .cmd (.sbl 0 0) ∧ decode 0x22770000 = .cmd (.sbp 7 7) ∧
  decode 0x31000004 = .cmd (.arc 4) ∧ decode 0x32000002 = .cmd (.round 2) ∧ decode 0x33000000 = .cmd .perm ∧
  decode 0x31000005 = .illegal .roundIndex ∧ decode 0x00000001 = .illegal .unusedFieldNonzero ∧
  decode 0xFF000000 = .illegal .undefinedOpcode

/-- An assembler accepts exactly the lines whose operands are in range, and what it gives is the well-formed command whose word has
the form's opcode and operands in the fields R90 and R81 name, with the data word V of a WRS line (R90). That a line is held as
its mnemonic with numbers, and that the data word of another line is 0, is the model's choice (log 12). -/
def Obligations.AssemblerRefusesOutOfRangeOperands : Prop :=
  ∀ l : AsmLine,
    if l.inRange = true then
      let f := l.fields
      ∃ (i : Instr) (d : Word), l.assemble = some (i, d) ∧ i.wellFormed = true ∧
        (encode i).toNat = f.opc * 2 ^ 24 + f.rd * 2 ^ 20 + f.rs1 * 2 ^ 16 + f.rs2 * 2 ^ 12 + f.imm ∧ d.toNat = f.data ∧
        l.hostAct = some (.command (encode i) d)
    else l.assemble = none

/-! ## The step -/

/-- When the host presents a word that decodes to a command, the step is that command's meaning at the accepted state, after the
command in progress, if there is one, has been carried to its end (R73, R265, R269). -/
def Obligations.StepRunsTheDecodedCommand : Prop :=
  ∀ (s : State) (w : CmdWord) (d : Word) (rest : List HostAct) (i : Instr),
    s.host = .command w d :: rest → decode w = .cmd i →
    step s = exec i (s.settle.accepted w d rest) ∧ (s.isIdle = true → s.settle = s)

/-- The command placed by `withFetchWord` is what the next step runs. -/
def Obligations.PlacedCommandRunsNext : Prop :=
  ∀ (s : State) (w : CmdWord) (i : Instr), s.isIdle = true → decode w = .cmd i →
    step (s.withFetchWord 32 w.toNat) = exec i (s.accepted w 0 s.host)

/-- The step function is total (R36). -/
def Obligations.EveryStepGivesANextState : Prop :=
  ∀ s : State, ∃ t : State, step s = .next t

/-- Every step keeps the invariant, unless the clock stops on a unit that does not retain its state (R21, R32, R233, R235). The model's
choices in it: what a retaining clock stop keeps (log 5), BUSY during every command in progress (log 18; R28 lists six), and ERR during
one exactly when its operand check failed (log 17). -/
def Obligations.StepKeepsTheUnitGood : Prop :=
  ∀ s t : State, s.Ok → s.clockRuns ∨ Config.clockStopRetains = true → step s = .next t → t.Ok

/-- The state after reset meets the invariant. -/
def Obligations.ResetStateIsGood : Prop := State.reset.Ok

/-- A reset edge sets S, STATUS, PH and RND to zero, zero, IDLE and zero from every state, one with a command in progress among them
and whatever the command port carries; no response is given, and the unit is then ready (R261, R262). The same of a step. -/
def Obligations.ResetSetsEveryPieceAndAbandonsTheCommand : Prop :=
  (∀ (t : Timing) (p : Pins) (s : State), p.rst = true →
    cmdReady p s = false ∧ rspValid p s = false ∧
    let u := clock t p s
    (∀ i : RegIdx, u.reg i = 0) ∧ u.status.word = 0 ∧ u.ph = .idle ∧ u.rnd = 0 ∧
      ∀ q : Pins, q.rst = false → cmdReady q u = true ∧ rspValid q u = false) ∧
  ∀ (s : State) (rest : List HostAct), s.host = .reset :: rest →
    ∃ u : State, step s = .next u ∧ (∀ i : RegIdx, u.reg i = 0) ∧ u.status.word = 0 ∧ u.ph = .idle ∧ u.rnd = 0 ∧
      u.rsp = none ∧ u.host = rest

/-- With nothing from the host the unit holds its state; only the response pulse of the command before it ends (R246, R267). -/
def Obligations.IdleUnitHoldsItsState : Prop :=
  ∀ s : State, s.isIdle = true →
    (s.host = [] → step s = .next { s with rsp := none, freeIdx := s.freeIdx + 1 }) ∧
    ∀ rest : List HostAct, s.host = .idle :: rest →
      step s = .next { s with rsp := none, host := rest, freeIdx := s.freeIdx + 1 }

/-- A stop of the clock changes nothing on a unit that retains its state; in no case does it change what the host does after it
(R246; that a retaining unit keeps its sequencer too is the model's choice, log 5). -/
def Obligations.ClockStopKeepsStateOfARetainingUnit : Prop :=
  ∀ (s : State) (rest : List HostAct), s.host = .stopClock :: rest →
    ∃ t : State, step s = .next t ∧ t.host = rest ∧
      (Config.clockStopRetains = true → t = { s with host := rest, freeIdx := s.freeIdx + 1 })

/-! ## Errors -/

/-- What every word raises, by the table of R231 with the priority of R234: nothing, and then ERR stays 0; or one error, and then the
state is the accepted state but for ERR, ECODE and ECMD (R232), with no response. An illegal word is among them (R87). -/
def Obligations.EveryWordRaisesItsListedError : Prop :=
  ∀ (s : State) (w : CmdWord) (d : Word) (rest : List HostAct),
    s.isIdle = true → s.status.err = false → s.host = .command w d :: rest →
    ∃ t : State, step s = .next t ∧
      if causeCode s w d = 0 then t.status.err = false
      else t = (s.accepted w d rest).withError (BitVec.ofNat 4 (causeCode s w d)) w

/-- A command that records an error changes nothing but STATUS, and records its own word (R232, R238). -/
def Obligations.ErrorIsPreciseAndNamesTheCommand : Prop :=
  ∀ (i : Instr) (s t : State), s.status.err = false → exec i s = .next t → t.status.err = true →
    ∃ e : ErrCause, operandCheck i s = some e ∧ t = s.withError e.code (encode i)

/-- While ERR = 1 only NOP, RDS, RDSTAT and CLRERR execute, as legal words; every other word, illegal ones among them, is dropped: the
next state is the accepted state (R235). -/
def Obligations.OnlyFourCommandsRunWhileErrorIsSet : Prop :=
  ∀ (s : State) (w : CmdWord) (d : Word) (rest : List HostAct),
    s.isIdle = true → s.status.err = true → s.host = .command w d :: rest →
    let a := s.accepted w d rest
    step s = .next a ∧ decode w ≠ .cmd .rdstat ∧ decode w ≠ .cmd .clrerr ∧ (∀ r : RegIdx, decode w ≠ .cmd (.rds r)) ∨
    (∃ r : RegIdx, decode w = .cmd (.rds r) ∧ step s = .next { a with rsp := some (s.reg r) }) ∨
    (decode w = .cmd .rdstat ∧ step s = .next { a with rsp := some s.status.word }) ∨
    (decode w = .cmd .clrerr ∧
      step s = .next { a with status := { busy := s.status.busy, err := false, ecode := 0, ecmd := 0 } })

/-- The meaning of every command but those four leaves the state as it is while ERR = 1 (R235). -/
def Obligations.CommandsAreDroppedWhileErrorIsSet : Prop :=
  ∀ (i : Instr) (s : State), runsInError i = false → s.status.err = true → exec i s = .next s

/-- Only the first error is recorded: while ERR = 1, no step but a CLRERR, a reset or a stop of the clock changes ERR, ECODE or ECMD, and
after it BUSY is 0, as it was if the unit was idle (R29, R237). -/
def Obligations.RecordedErrorStaysUntilCleared : Prop :=
  ∀ (s t : State), s.Ok → s.status.err = true → step s = .next t →
    s.host.head? ≠ some .reset → s.clockRuns →
    (∀ (w : CmdWord) (d : Word) (rest : List HostAct), s.host = .command w d :: rest → decode w ≠ .cmd .clrerr) →
    t.status = { s.status with busy := false }

/-- No command writes STATUS but on the error path and CLRERR (R33). -/
def Obligations.StatusIsWrittenOnlyByErrorAndClear : Prop :=
  ∀ (i : Instr) (s t : State), exec i s = .next t → i ≠ .clrerr →
    t.status = s.status ∨
      (s.status.err = false ∧ t.status.err = true ∧ t.status.busy = s.status.busy ∧
        (t.status.ecode = 1 ∨ t.status.ecode = 2 ∨ t.status.ecode = 3))

/-! ## Host transfer and control -/

/-- NOP and CLRERR execute whatever ERR is: NOP changes nothing, CLRERR makes ERR, ECODE and ECMD 0 and changes nothing else; the words
0x00000000 and 0x04000000 do so in a step (R210, R214). -/
def Obligations.NopAndClearErrorAlwaysExecute : Prop :=
  ∀ s : State,
    exec .nop s = .next s ∧
    exec .clrerr s = .next { s with status := { busy := s.status.busy, err := false, ecode := 0, ecmd := 0 } } ∧
    ∀ (d : Word) (rest : List HostAct), s.isIdle = true →
      (s.host = .command 0x00000000 d :: rest → step s = .next (s.accepted 0x00000000 d rest)) ∧
      (s.host = .command 0x04000000 d :: rest →
        step s = .next { s.accepted 0x04000000 d rest with
          status := { busy := s.status.busy, err := false, ecode := 0, ecmd := 0 } })

/-- WRS stores a canonical data word in S[rd] and nothing else; one that is not canonical is E_NONCANON and is not stored (R211). -/
def Obligations.WrsStoresCanonicalDataOnly : Prop :=
  ∀ (s : State) (rd : RegIdx), s.status.err = false →
    if s.cmdData.toNat < P then
      ∃ t : State, exec (.wrs rd) s = .next t ∧ t.reg rd = s.cmdData ∧ s.ChangesOnlyReg t rd
    else exec (.wrs rd) s = .next (s.withError 3 (encode (.wrs rd)))

/-- RDS responds with S[rs1] whatever ERR is and changes nothing else; in a good state the response is canonical (R212, R71). -/
def Obligations.RdsRespondsWithTheRegister : Prop :=
  ∀ (s : State) (rs1 : RegIdx),
    ∃ v : Word, exec (.rds rs1) s = .next { s with rsp := some v } ∧ v = s.reg rs1 ∧ (s.Ok → v.toNat < P)

/-- RDSTAT responds with STATUS in the layout of R25 whatever ERR is and changes nothing else; BUSY reads 0 in a good idle state (R213,
R26, R28). -/
def Obligations.RdstatRespondsWithTheStatusLayout : Prop :=
  ∀ s : State,
    ∃ v : Word, exec .rdstat s = .next { s with rsp := some v } ∧
      v.toNat = s.status.ecmd.toNat * 2 ^ 32 + s.status.ecode.toNat * 2 ^ 4 + s.status.err.toNat * 2 + s.status.busy.toNat ∧
      (s.Ok → s.isIdle = true → v.toNat % 2 = 0)

/-! ## Field arithmetic -/

/-- FADD writes (a + b) mod P; of canonical operands that is a + b - P when a + b is at least P, and a + b otherwise (R112, R118). -/
def Obligations.FaddAddsModuloP : Prop :=
  ∀ (s : State) (rd rs1 rs2 : RegIdx), s.status.err = false →
    let a := (s.reg rs1).toNat
    let b := (s.reg rs2).toNat
    ∃ t : State, exec (.fadd rd rs1 rs2) s = .next t ∧ s.ChangesOnlyReg t rd ∧ (t.reg rd).toNat = (a + b) % P ∧
      (a < P → b < P → (t.reg rd).toNat = if P ≤ a + b then a + b - P else a + b)

/-- FMUL writes (a * b) mod P (R113, R119). -/
def Obligations.FmulMultipliesModuloP : Prop :=
  ∀ (s : State) (rd rs1 rs2 : RegIdx), s.status.err = false →
    ∃ t : State, exec (.fmul rd rs1 rs2) s = .next t ∧ s.ChangesOnlyReg t rd ∧
      (t.reg rd).toNat = (s.reg rs1).toNat * (s.reg rs2).toNat % P

/-- LIMBHI writes bits 63:32 and LIMBLO bits 31:0 of the operand, zero-extended (R114, R120, R121). -/
def Obligations.LimbCommandsWriteTheHalves : Prop :=
  ∀ (s : State) (rd rs1 : RegIdx), s.status.err = false →
    (∃ t : State, exec (.limbhi rd rs1) s = .next t ∧ s.ChangesOnlyReg t rd ∧
      (t.reg rd).toNat = (s.reg rs1).toNat / 2 ^ 32) ∧
    ∃ t : State, exec (.limblo rd rs1) s = .next t ∧ s.ChangesOnlyReg t rd ∧
      (t.reg rd).toNat = (s.reg rs1).toNat % 2 ^ 32

/-- FROMLIMBS composes h * 2^32 + l; E_RANGE when one operand is not a 32-bit limb, and then E_NONCANON when the composed value is not
below P (R122, R115, R234). -/
def Obligations.FromlimbsComposesOrRaises : Prop :=
  ∀ (s : State) (rd rs1 rs2 : RegIdx), s.status.err = false →
    let h := (s.reg rs1).toNat
    let l := (s.reg rs2).toNat
    if 2 ^ 32 ≤ h ∨ 2 ^ 32 ≤ l then
      exec (.fromlimbs rd rs1 rs2) s = .next (s.withError 2 (encode (.fromlimbs rd rs1 rs2)))
    else if P ≤ h * 2 ^ 32 + l then
      exec (.fromlimbs rd rs1 rs2) s = .next (s.withError 3 (encode (.fromlimbs rd rs1 rs2)))
    else
      ∃ t : State, exec (.fromlimbs rd rs1 rs2) s = .next t ∧ s.ChangesOnlyReg t rd ∧
        (t.reg rd).toNat = h * 2 ^ 32 + l

/-- BYTE writes byte k of the limb, byte 0 the least significant; E_RANGE when the operand is not a 32-bit limb (R116, R123). -/
def Obligations.ByteExtractsOrRaises : Prop :=
  ∀ (s : State) (rd rs1 : RegIdx) (k : Fin 4), s.status.err = false →
    let l := (s.reg rs1).toNat
    if 2 ^ 32 ≤ l then exec (.byte rd rs1 k) s = .next (s.withError 2 (encode (.byte rd rs1 k)))
    else
      ∃ t : State, exec (.byte rd rs1 k) s = .next t ∧ s.ChangesOnlyReg t rd ∧
        (t.reg rd).toNat = l / 2 ^ (8 * k.val) % 2 ^ 8

/-- LIMBHI, LIMBLO and then FROMLIMBS of the two give the element back (R115, R124). -/
def Obligations.LimbsComposeBackToTheElement : Prop :=
  ∀ (s : State) (a h l d : RegIdx), s.status.err = false → (s.reg a).toNat < P → h ≠ a → l ≠ h →
    ∃ t1 t2 t3 : State, exec (.limbhi h a) s = .next t1 ∧ exec (.limblo l a) t1 = .next t2 ∧
      exec (.fromlimbs d h l) t2 = .next t3 ∧ t3.reg d = s.reg a

/-- The four bytes of a limb rebuild it (R116, R124). -/
def Obligations.BytesRebuildTheLimb : Prop :=
  ∀ l : Limb,
    fromBytes (toBytes l) = l ∧
    l.toNat = (toBytes l)[0].toNat + 256 * (toBytes l)[1].toNat + 65536 * (toBytes l)[2].toNat +
      16777216 * (toBytes l)[3].toNat

/-- The field laws of R124: addition and multiplication commute and associate, and multiplication distributes over addition. -/
def Obligations.FieldLawsHold : Prop :=
  ∀ a b c : Word,
    fadd a b = fadd b a ∧ fmul a b = fmul b a ∧
    fadd (fadd a b) c = fadd a (fadd b c) ∧ fmul (fmul a b) c = fmul a (fmul b c) ∧
    fmul a (fadd b c) = fadd (fmul a b) (fmul a c)

/-! ## Lookup and S-boxes -/

/-- LUT replaces a byte value by its table entry; E_RANGE from 256 on (R140, R141). -/
def Obligations.LutSubstitutesAByteOrRaises : Prop :=
  ∀ (s : State) (rd rs1 : RegIdx), s.status.err = false →
    let b := (s.reg rs1).toNat
    if 256 ≤ b then exec (.lut rd rs1) s = .next (s.withError 2 (encode (.lut rd rs1)))
    else
      ∃ t : State, exec (.lut rd rs1) s = .next t ∧ s.ChangesOnlyReg t rd ∧
        (t.reg rd).toNat = (Config.rom.lut (BitVec.ofNat 8 b)).toNat

/-- SBL substitutes the two low bytes of each half and recomposes them; bits 31:16 and 63:48 are discarded (R142, R144). -/
def Obligations.SblRecombinesSubstitutedBytes : Prop :=
  ∀ (s : State) (rd rs1 : RegIdx), s.status.err = false →
    let a := (s.reg rs1).toNat
    let sub : Nat → Nat := fun n => (Config.rom.lut (BitVec.ofNat 8 (n % 256))).toNat
    ∃ t : State, exec (.sbl rd rs1) s = .next t ∧ s.ChangesOnlyReg t rd ∧
      (t.reg rd).toNat = (sub (a / 2 ^ 40) * 256 + sub (a / 2 ^ 32)) * 2 ^ 32 + (sub (a / 2 ^ 8) * 256 + sub a)

/-- For every table: the Split-and-Lookup S-box depends only on bits 15:0 and 47:32, each half of its result is below 2^16 and the
result below 2^48 and P, and it is not injective on canonical elements (R143). -/
def Obligations.LookupSboxDropsTheUpperBytes : Prop :=
  ∀ rom : Rom,
    (∀ a b : Word, a.toNat % 2 ^ 16 = b.toNat % 2 ^ 16 → a.toNat / 2 ^ 32 % 2 ^ 16 = b.toNat / 2 ^ 32 % 2 ^ 16 →
      lookupSbox rom a = lookupSbox rom b) ∧
    (∀ a : Word, (lookupSbox rom a).toNat / 2 ^ 32 < 2 ^ 16 ∧ (lookupSbox rom a).toNat % 2 ^ 32 < 2 ^ 16 ∧
      (lookupSbox rom a).toNat < 2 ^ 48 ∧ (lookupSbox rom a).toNat < P) ∧
    ∃ a b : Word, a.toNat < P ∧ b.toNat < P ∧ a ≠ b ∧ lookupSbox rom a = lookupSbox rom b

/-- SBP writes a^7 mod P (R145, R147). -/
def Obligations.SbpRaisesToTheSeventhPower : Prop :=
  ∀ (s : State) (rd rs1 : RegIdx), s.status.err = false →
    ∃ t : State, exec (.sbp rd rs1) s = .next t ∧ s.ChangesOnlyReg t rd ∧
      (t.reg rd).toNat = (s.reg rs1).toNat ^ 7 % P

/-- The power map is a bijection on the canonical elements (R146). -/
def Obligations.PowerMapIsABijectionOnTheField : Prop :=
  ∀ y : Word, y.toNat < P → ∃ x : Word, x.toNat < P ∧ fpow7 x = y ∧ ∀ z : Word, z.toNat < P → fpow7 z = y → z = x

/-- SBOX: positions 0-3 go through the Split-and-Lookup S-box and positions 4-15 through the Power S-box (R22, R148, R149). -/
def Obligations.SboxSplitsThePositions : Prop :=
  ∀ s : State, s.status.err = false →
    ∃ t : State, exec .sbox s = .next t ∧ s.ChangesOnlyStateFile t ∧
      (∀ i : RegIdx, i.val < 4 → t.reg i = lookupSbox Config.rom (s.reg i)) ∧
      ∀ i : RegIdx, 4 ≤ i.val → (t.reg i).toNat = (s.reg i).toNat ^ 7 % P

/-! ## Linear layer -/

/-- MDS multiplies the state by the circulant matrix: output i is the sum over j of coeff[(j - i) mod 16] * V[j], reduced modulo P
(R170, R171, R172). -/
def Obligations.MdsMultipliesByTheCirculant : Prop :=
  ∀ s : State, s.status.err = false →
    ∃ t : State, exec .mds s = .next t ∧ s.ChangesOnlyStateFile t ∧
      ∀ i : RegIdx,
        (t.reg i).toNat =
          (∑ j : Fin 16, (Config.rom.mdsCoeff (Fin.ofNat 16 (j.val + 16 - i.val))).val * (s.reg j).toNat) % P

/-- For every coefficient vector: the image of the standard basis vector e_k is column k, coeff[(k - i) mod 16] (R174). -/
def Obligations.MdsMapsBasisVectorsToColumns : Prop :=
  ∀ (rom : Rom) (k i : RegIdx),
    (mdsMultiply rom (tabulate fun j => if j = k then 1 else 0))[i].toNat =
      (rom.mdsCoeff (Fin.ofNat 16 (k.val + 16 - i.val))).val

/-- For every coefficient vector: two inputs that differ at exactly one position differ at every output position exactly when no
coefficient is zero (R175). -/
def Obligations.MdsDiffusesOneDifferenceToAllPositions : Prop :=
  ∀ (rom : Rom) (V W : Elems) (j : RegIdx), CanonVec V → CanonVec W → V[j] ≠ W[j] →
    (∀ m : RegIdx, m ≠ j → V[m] = W[m]) →
    ((∀ i : RegIdx, (mdsMultiply rom V)[i] ≠ (mdsMultiply rom W)[i]) ↔ ∀ k : Fin 16, (rom.mdsCoeff k).val ≠ 0)

/-! ## Rounds -/

/-- ARC r adds RC[r][i], entry 16 * r + i of the ROM, to position i, for r = 0..4; r = 5, 6, 7 is E_ILLEGAL (R190, R191, R39). -/
def Obligations.ArcAddsTheRoundConstants : Prop :=
  ∀ (s : State) (r : Fin 8), s.status.err = false →
    if r.val ≤ 4 then
      ∃ t : State, exec (.arc r) s = .next t ∧ s.ChangesOnlyStateFile t ∧
        ∀ i : RegIdx, (t.reg i).toNat = ((s.reg i).toNat + (Config.rom.rcFlat (Fin.ofNat 80 (16 * r.val + i.val))).val) % P
    else exec (.arc r) s = .next (s.withError 1 (encode (.arc r)))

/-- ROUND r gives the registers that SBOX, MDS and ARC r give one after the other, for r = 0..4; r = 5, 6, 7 is E_ILLEGAL (R192,
R193). -/
def Obligations.RoundIsSboxThenMdsThenArc : Prop :=
  ∀ (s : State) (r : Fin 8), s.status.err = false →
    if r.val ≤ 4 then
      ∃ t a b c : State, exec (.round r) s = .next t ∧ s.ChangesOnlyStateFile t ∧
        exec .sbox s = .next a ∧ exec .mds a = .next b ∧ exec (.arc r) b = .next c ∧ t.regs = c.regs
    else exec (.round r) s = .next (s.withError 1 (encode (.round r)))

/-- PERM gives the registers that ROUND 0, 1, 2, 3, 4 give one after the other (R194, R195). -/
def Obligations.PermIsTheFiveRoundsInOrder : Prop :=
  ∀ s : State, s.status.err = false →
    ∃ t t0 t1 t2 t3 t4 : State, exec .perm s = .next t ∧ s.ChangesOnlyStateFile t ∧
      exec (.round 0) s = .next t0 ∧ exec (.round 1) t0 = .next t1 ∧ exec (.round 2) t1 = .next t2 ∧
      exec (.round 3) t2 = .next t3 ∧ exec (.round 4) t3 = .next t4 ∧ t.regs = t4.regs

/-- For every ROM contents: two inputs that differ only in bits 31:16 and 63:48 of positions 0-3 have the same permutation (R194). -/
def Obligations.PermuteIgnoresTheDroppedBits : Prop :=
  ∀ (rom : Rom) (V W : Elems),
    (∀ i : RegIdx, i.val < 4 →
      V[i].toNat % 2 ^ 16 = W[i].toNat % 2 ^ 16 ∧ V[i].toNat / 2 ^ 32 % 2 ^ 16 = W[i].toNat / 2 ^ 32 % 2 ^ 16) →
    (∀ i : RegIdx, 4 ≤ i.val → V[i] = W[i]) →
    permute rom V = permute rom W

/-- The round counter selects the constants: in phase ADDRC the sequencer adds ROM entry 16 * RND + i to position i and then goes to
DONE after the last round, or on to the next round with RND one higher; SUB and LIN keep RND, no phase before DONE changes `last` or
the command word, and in ROUND and PERM SUB leads to LIN and LIN to ADDRC; PERM starts in SUB with RND = 0 and last = 4, ROUND r with
both r (R42, R196, R197). -/
def Obligations.RoundCounterSelectsItsConstants : Prop :=
  (∀ s : State, s.ph = .addrc →
    (∀ i : RegIdx, (s.advance.work[i]).toNat =
      (s.work[i].toNat + (Config.rom.rcFlat (Fin.ofNat 80 (16 * s.rnd.val + i.val))).val) % P) ∧
    (s.rnd = s.last → s.advance.ph = .done ∧ s.advance.rnd = s.rnd) ∧
    (s.rnd.val < s.last.val → s.advance.ph = .sub ∧ s.advance.rnd.val = s.rnd.val + 1)) ∧
  (∀ s : State, s.ph = .sub ∨ s.ph = .lin → s.advance.rnd = s.rnd) ∧
  (∀ s : State, s.ph = .sub ∨ s.ph = .lin ∨ s.ph = .addrc → s.advance.last = s.last ∧ s.advance.cmd = s.cmd) ∧
  (∀ s : State, decode s.cmd = .cmd .perm ∨ (∃ r : Fin 8, decode s.cmd = .cmd (.round r)) →
    (s.ph = .sub → s.advance.ph = .lin) ∧ (s.ph = .lin → s.advance.ph = .addrc)) ∧
  ∀ (s : State) (n : Nat),
    ((s.start .perm n).ph = .sub ∧ (s.start .perm n).rnd.val = 0 ∧ (s.start .perm n).last.val = 4) ∧
    ∀ r : Fin 8, r.val ≤ 4 →
      (s.start (.round r) n).ph = .sub ∧ (s.start (.round r) n).rnd.val = r.val ∧ (s.start (.round r) n).last.val = r.val

/-! ## All commands -/

/-- What a command leaves alone: every register it does not name as its destination (R23), and every field but the registers, STATUS,
the response and the sequencer's V, RND and last; those three only a whole-state command touches, the response only RDS and
RDSTAT. -/
def Obligations.CommandsWriteOnlyWhatTheyName : Prop :=
  ∀ (i : Instr) (s t : State), exec i s = .next t →
    (∀ j : RegIdx, writesReg i j = false → t.reg j = s.reg j) ∧
    t = { s with regs := t.regs, work := t.work, rnd := t.rnd, last := t.last, status := t.status, rsp := t.rsp } ∧
    (wholeState i = false → t.work = s.work ∧ t.rnd = s.rnd ∧ t.last = s.last) ∧
    (i ≠ .rdstat → (∀ r : RegIdx, i ≠ .rds r) → t.rsp = s.rsp)

/-- A step that stops no clock leaves a response exactly when it ran a legal RDS or RDSTAT word (R35, R268). -/
def Obligations.OnlyReadsRespond : Prop :=
  ∀ s : State, s.clockRuns →
    ∃ t : State, step s = .next t ∧
      (t.rsp.isSome = true ↔
        ∃ (w : CmdWord) (d : Word) (rest : List HostAct), s.host = .command w d :: rest ∧
          (decode w = .cmd .rdstat ∨ ∃ r : RegIdx, decode w = .cmd (.rds r)))

/-- The data word has no effect on any command but WRS (R82). -/
def Obligations.DataWordIsReadByWrsAlone : Prop :=
  ∀ (i : Instr) (s : State) (d : Word), (∀ rd : RegIdx, i ≠ .wrs rd) →
    ∃ t : State, exec i s = .next t ∧ exec i { s with cmdData := d } = .next { t with cmdData := d }

/-- The registers and the error a command leaves depend on the registers, on ERR and on the data word alone: on no earlier response,
error record, sequencer state or timing (R198). -/
def Obligations.ResultsDependOnRegistersAndErrorAlone : Prop :=
  ∀ (i : Instr) (s u : State), s.regs = u.regs → s.status.err = u.status.err → s.cmdData = u.cmdData →
    ∃ s' u' : State, exec i s = .next s' ∧ exec i u = .next u' ∧ s'.regs = u'.regs ∧ s'.status.err = u'.status.err

/-! ## The clock level -/

/-- For every latency and every pace: a command accepted by an idle unit keeps `busy` = 1 and `cmd_ready` = 0 for its latency less one
cycles, one that fails its operand check too, or for none when it is dropped because ERR = 1; in those cycles no register has changed
and ERR, ECODE and ECMD are already those of its end, whatever the host drives without reset; and then the state is exactly the one its
meaning gives (R36, R43, R196, R235, R238, R266, R271). The model's choices in it: the pace (log 9), the count of busy cycles (log 10),
RND and last after it (log 11), `busy` for every command (log 18), and the edge at which an error is recorded (log 17). An illegal
word: AcceptedIllegalWordIsRecordedOrDropped. -/
def Obligations.ClockLevelRunEqualsTheMeaning : Prop :=
  ∀ (tm : Timing) (s : State) (w : CmdWord) (d : Word) (i : Instr) (ps : List Pins),
    s.Ok → s.isIdle = true → decode w = .cmd i → (∀ p ∈ ps, p.rst = false) →
    ps.length = (if s.status.err = true then 0 else latency tm i - 1) →
    let first := clock tm { rst := false, cmdValid := true, cmd := w, cmdData := d } s
    ∃ t : State, exec i (s.accept w d) = .next t ∧
      (∀ n : Nat, n < ps.length → let u := clocks tm (ps.take n) first
        busyOut u = true ∧ (∀ q : Pins, cmdReady q u = false) ∧ u.regs = s.regs ∧
          u.status = { t.status with busy := true }) ∧
      clocks tm ps first = { t with freeIdx := t.freeIdx + ps.length }

/-- Every clock edge keeps the invariant: registers canonical, STATUS legal, BUSY 1 exactly while a command is in progress, ERR 1
during it exactly when its operand check failed (R21, R32, R235, R266). The model's choices in it: BUSY during every command in progress
(log 18; R28 lists six), and ERR from the accepting edge (log 17). -/
def Obligations.ClockKeepsTheUnitGood : Prop :=
  ∀ (tm : Timing) (p : Pins) (s : State), s.Ok → (clock tm p s).Ok

/-- A command that has started cannot fail: no edge but a reset changes ERR, ECODE or ECMD while a command is in progress, and ERR is 0
before and after each edge of FMUL, SBP, SBOX, MDS, ROUND and PERM (R238). That ERR stands already, and so does not change, while a LUT,
BYTE or FROMLIMBS that failed its operand check is in progress is the model's choice (log 17). -/
def Obligations.StartedCommandCannotFail : Prop :=
  ∀ (tm : Timing) (p : Pins) (s : State), s.Ok → s.isIdle = false →
    let t := clock tm p s
    (p.rst = false → t.status = { s.status with busy := t.status.busy }) ∧
    ∀ i : Instr, decode s.cmd = .cmd i → multiCycle i = true → s.status.err = false ∧ t.status.err = false

/-- The command port has no effect at an edge that accepts nothing: while `rst` = 1, while a command is in progress, and while
`cmd_valid` = 0 (R262, R265). -/
def Obligations.PortIsSampledOnlyAtTheAcceptingEdge : Prop :=
  ∀ (tm : Timing) (p q : Pins) (s : State), p.rst = q.rst →
    (p.rst = true ∨ s.isIdle = false ∨ (p.cmdValid = false ∧ q.cmdValid = false)) → clock tm p s = clock tm q s

/-- The response of an accepted RDS is on the port in the next cycle, with the register's value, and in that cycle only (R35, R267). -/
def Obligations.ResponseLastsOneCycle : Prop :=
  ∀ (tm : Timing) (s : State) (w : CmdWord) (d : Word) (r : RegIdx) (q : Pins),
    s.isIdle = true → decode w = .cmd (.rds r) → q.rst = false → q.cmdValid = false →
    let u := clock tm { rst := false, cmdValid := true, cmd := w, cmdData := d } s
    rspValid q u = true ∧ rspData q u = s.reg r ∧ cmdReady q u = true ∧ rspValid q (clock tm q u) = false

/-- The host's sequence for a permutation (R91, R215): the sixteen WRS, PERM and the sixteen RDS of the pseudo-instruction, from any
idle state without an error and for all canonical inputs, leave the permutation of the inputs in the registers after the PERM, and
the k-th RDS responds with its element k. The model's choices in it: the host's list (log 2) and the assembly lines (log 12). -/
def Obligations.HostSequenceComputesThePermutation : Prop :=
  ∀ (s : State) (x : Vector Nat 16), s.isIdle = true → s.status.err = false → (∀ i : Fin 16, x[i] < P) →
    hostActs (Pseudo.expand (.permute x)) = some s.host →
    let out := permute Config.rom (tabulate fun i => BitVec.ofNat 64 x[i])
    (∃ t : State, Sys2Proof.core.run 17 s = .next t ∧ t.regs = out ∧ t.status.err = false) ∧
    ∀ k : Fin 16, ∃ t : State, Sys2Proof.core.run (18 + k.val) s = .next t ∧ t.rsp = some out[k] ∧ t.status.err = false

/-- For every timing, the edge at which an idle unit accepts an illegal word records E_ILLEGAL with that word when ERR = 0 and drops
the word when ERR = 1; it changes nothing else but the sampled words and the response before, gives no response, and leaves the
unit ready (R87, R232, R235, R266). That an illegal word with ERR = 0 ends at its accepting edge is the model's choice (log 15). -/
def Obligations.AcceptedIllegalWordIsRecordedOrDropped : Prop :=
  ∀ (tm : Timing) (s : State) (w : CmdWord) (d : Word), s.isIdle = true → legalWord w = false →
    let u := clock tm { rst := false, cmdValid := true, cmd := w, cmdData := d } s
    (s.status.err = false → u = (s.accept w d).withError 1 w) ∧
    (s.status.err = true → u = s.accept w d) ∧
    u.status.busy = s.status.busy ∧
    ∀ q : Pins, q.rst = false → cmdReady q u = true ∧ rspValid q u = false

/-- For every latency and every pace, PH of an accepted command is DONE in its last busy cycle, at the end of which the unit is in IDLE;
in no busy cycle before that is PH of a whole-state command DONE or IDLE, and in all of them S is as before the command (R41, R43,
R196). The model's choices in it: how many busy cycles there are (log 10), and that the last of them is the cycle of DONE (log 16). -/
def Obligations.DoneIsTheCycleInWhichTheResultIsWritten : Prop :=
  ∀ (tm : Timing) (s : State) (w : CmdWord) (d : Word) (i : Instr) (ps : List Pins),
    s.Ok → s.isIdle = true → s.status.err = false → decode w = .cmd i → (∀ p ∈ ps, p.rst = false) →
    ps.length = latency tm i - 1 →
    let first := clock tm { rst := false, cmdValid := true, cmd := w, cmdData := d } s
    (∀ n : Nat, n < ps.length → let u := clocks tm (ps.take n) first
      u.regs = s.regs ∧ (n + 1 = ps.length → u.ph = .done) ∧
        (wholeState i = true → n + 1 < ps.length → u.ph ≠ .done ∧ u.ph ≠ .idle)) ∧
    (clocks tm ps first).ph = .idle
end

