-- ==== Sys2Proof/Laws/Decode.lean ====
section
/-!
SUPPORT. The command word by its fields: what each field of an assembled word is, what fits a row of the match and mask table, and
the rows written field by field. Proofs about decoding work on the five fields and never on 32 bits.
-/

namespace Sys2Proof

/-- Two words put together from parts are equal exactly when the parts are. -/
theorem append_inj_iff {n m : Nat} (x x' : BitVec n) (y y' : BitVec m) : x ++ y = x' ++ y' ↔ x = x' ∧ y = y' := by
  constructor
  · intro h
    have h1 := congrArg (BitVec.extractLsb' 0 m) h
    have h2 := congrArg (BitVec.extractLsb' m n) h
    simpa [BitVec.extractLsb'_append_eq_right, BitVec.extractLsb'_append_eq_left] using And.intro h2 h1
  · rintro ⟨rfl, rfl⟩
    rfl

/-- A word is put together from its fields (R81). -/
theorem assemble_fields (w : CmdWord) :
    assembleWord (opcField w) (rdField w) (rs1Field w) (rs2Field w) (immField w) = w := by
  simp only [assembleWord, opcField, rdField, rs1Field, rs2Field, immField, BitVec.ofNat_toNat, BitVec.setWidth_eq]
  ext i hi
  simp only [BitVec.getElem_append, BitVec.getElem_extractLsb']
  interval_cases i <;> simp [BitVec.getLsbD_eq_getElem]

variable (o : BitVec 8) (a b c : RegIdx) (i : BitVec 12)

theorem opcField_assembleWord : opcField (assembleWord o a b c i) = o := by
  simp only [opcField, assembleWord]
  ext k hk
  simp only [BitVec.getElem_extractLsb', BitVec.getLsbD_append]
  interval_cases k <;> simp [BitVec.getLsbD_eq_getElem]

theorem rdField_assembleWord : rdField (assembleWord o a b c i) = a := by
  have h : (assembleWord o a b c i).extractLsb' 20 4 = BitVec.ofNat 4 a.val := by
    simp only [assembleWord]
    ext k hk
    simp only [BitVec.getElem_extractLsb', BitVec.getLsbD_append]
    interval_cases k <;> simp [BitVec.getLsbD_eq_getElem]
  apply Fin.ext
  simp only [rdField, h]
  simp

theorem rs1Field_assembleWord : rs1Field (assembleWord o a b c i) = b := by
  have h : (assembleWord o a b c i).extractLsb' 16 4 = BitVec.ofNat 4 b.val := by
    simp only [assembleWord]
    ext k hk
    simp only [BitVec.getElem_extractLsb', BitVec.getLsbD_append]
    interval_cases k <;> simp [BitVec.getLsbD_eq_getElem]
  apply Fin.ext
  simp only [rs1Field, h]
  simp

theorem rs2Field_assembleWord : rs2Field (assembleWord o a b c i) = c := by
  have h : (assembleWord o a b c i).extractLsb' 12 4 = BitVec.ofNat 4 c.val := by
    simp only [assembleWord]
    ext k hk
    simp only [BitVec.getElem_extractLsb', BitVec.getLsbD_append]
    interval_cases k <;> simp [BitVec.getLsbD_eq_getElem]
  apply Fin.ext
  simp only [rs2Field, h]
  simp

theorem immField_assembleWord : immField (assembleWord o a b c i) = i := by
  simp only [immField, assembleWord]
  ext k hk
  simp only [BitVec.getElem_extractLsb', BitVec.getLsbD_append]
  interval_cases k <;> simp [BitVec.getLsbD_eq_getElem]

theorem byteIndexField_assembleWord : (byteIndexField (assembleWord o a b c i)).val = i.toNat % 4 := by
  have h := congrArg BitVec.toNat (immField_assembleWord o a b c i)
  simp only [byteIndexField, immField, BitVec.extractLsb'_toNat, Nat.shiftRight_zero] at *
  omega

theorem roundIndexField_assembleWord : (roundIndexField (assembleWord o a b c i)).val = i.toNat % 8 := by
  have h := congrArg BitVec.toNat (immField_assembleWord o a b c i)
  simp only [roundIndexField, immField, BitVec.extractLsb'_toNat, Nat.shiftRight_zero] at *
  omega

/-- An assembled word as a number (R10, R81). -/
theorem assembleWord_toNat :
    (assembleWord o a b c i).toNat = o.toNat * 2 ^ 24 + a.val * 2 ^ 20 + b.val * 2 ^ 16 + c.val * 2 ^ 12 + i.toNat := by
  have ha := a.isLt
  have hb := b.isLt
  have hc := c.isLt
  simp only [assembleWord]
  rw [BitVec.toNat_append, ← Nat.shiftLeft_add_eq_or_of_lt i.isLt, BitVec.toNat_append,
    ← Nat.shiftLeft_add_eq_or_of_lt (BitVec.isLt _), BitVec.toNat_append, ← Nat.shiftLeft_add_eq_or_of_lt (BitVec.isLt _),
    BitVec.toNat_append, ← Nat.shiftLeft_add_eq_or_of_lt (BitVec.isLt _)]
  simp only [Nat.shiftLeft_eq, BitVec.toNat_ofNat]
  omega

/-- What fits a row given by its fields (R89, R92). -/
theorem fits_assembleWord (op : Op) (o o0 m0 : BitVec 8) (a b c : RegIdx) (a0 m1 b0 m2 c0 m3 : BitVec 4)
    (i i0 m4 : BitVec 12) :
    (Row.mk op (o0 ++ a0 ++ b0 ++ c0 ++ i0) (m0 ++ m1 ++ m2 ++ m3 ++ m4)).fits (assembleWord o a b c i) =
      decide (o &&& m0 = o0 ∧ BitVec.ofNat 4 a.val &&& m1 = a0 ∧ BitVec.ofNat 4 b.val &&& m2 = b0 ∧
        BitVec.ofNat 4 c.val &&& m3 = c0 ∧ i &&& m4 = i0) := by
  rw [Bool.eq_iff_iff, decide_eq_true_iff]
  simp only [Row.fits, beq_iff_eq, assembleWord]
  rw [BitVec.and_append, BitVec.and_append, BitVec.and_append, BitVec.and_append, append_inj_iff, append_inj_iff,
    append_inj_iff, append_inj_iff]
  tauto

/-- The rows of R92, field by field. -/
theorem rows_fields : rows =
  [ ⟨.nop, (0#8 ++ 0#4 ++ 0#4 ++ 0#4 ++ 0#12), (255#8 ++ 15#4 ++ 15#4 ++ 15#4 ++ 4095#12)⟩
  , ⟨.wrs, (1#8 ++ 0#4 ++ 0#4 ++ 0#4 ++ 0#12), (255#8 ++ 0#4 ++ 15#4 ++ 15#4 ++ 4095#12)⟩
  , ⟨.rds, (2#8 ++ 0#4 ++ 0#4 ++ 0#4 ++ 0#12), (255#8 ++ 15#4 ++ 0#4 ++ 15#4 ++ 4095#12)⟩
  , ⟨.rdstat, (3#8 ++ 0#4 ++ 0#4 ++ 0#4 ++ 0#12), (255#8 ++ 15#4 ++ 15#4 ++ 15#4 ++ 4095#12)⟩
  , ⟨.clrerr, (4#8 ++ 0#4 ++ 0#4 ++ 0#4 ++ 0#12), (255#8 ++ 15#4 ++ 15#4 ++ 15#4 ++ 4095#12)⟩
  , ⟨.fadd, (16#8 ++ 0#4 ++ 0#4 ++ 0#4 ++ 0#12), (255#8 ++ 0#4 ++ 0#4 ++ 0#4 ++ 4095#12)⟩
  , ⟨.fmul, (17#8 ++ 0#4 ++ 0#4 ++ 0#4 ++ 0#12), (255#8 ++ 0#4 ++ 0#4 ++ 0#4 ++ 4095#12)⟩
  , ⟨.limbhi, (18#8 ++ 0#4 ++ 0#4 ++ 0#4 ++ 0#12), (255#8 ++ 0#4 ++ 0#4 ++ 15#4 ++ 4095#12)⟩
  , ⟨.limblo, (19#8 ++ 0#4 ++ 0#4 ++ 0#4 ++ 0#12), (255#8 ++ 0#4 ++ 0#4 ++ 15#4 ++ 4095#12)⟩
  , ⟨.fromlimbs, (20#8 ++ 0#4 ++ 0#4 ++ 0#4 ++ 0#12), (255#8 ++ 0#4 ++ 0#4 ++ 0#4 ++ 4095#12)⟩
  , ⟨.byte, (21#8 ++ 0#4 ++ 0#4 ++ 0#4 ++ 0#12), (255#8 ++ 0#4 ++ 0#4 ++ 15#4 ++ 4092#12)⟩
  , ⟨.lut, (32#8 ++ 0#4 ++ 0#4 ++ 0#4 ++ 0#12), (255#8 ++ 0#4 ++ 0#4 ++ 15#4 ++ 4095#12)⟩
  , ⟨.sbl, (33#8 ++ 0#4 ++ 0#4 ++ 0#4 ++ 0#12), (255#8 ++ 0#4 ++ 0#4 ++ 15#4 ++ 4095#12)⟩
  , ⟨.sbp, (34#8 ++ 0#4 ++ 0#4 ++ 0#4 ++ 0#12), (255#8 ++ 0#4 ++ 0#4 ++ 15#4 ++ 4095#12)⟩
  , ⟨.sbox, (35#8 ++ 0#4 ++ 0#4 ++ 0#4 ++ 0#12), (255#8 ++ 15#4 ++ 15#4 ++ 15#4 ++ 4095#12)⟩
  , ⟨.mds, (48#8 ++ 0#4 ++ 0#4 ++ 0#4 ++ 0#12), (255#8 ++ 15#4 ++ 15#4 ++ 15#4 ++ 4095#12)⟩
  , ⟨.arc, (49#8 ++ 0#4 ++ 0#4 ++ 0#4 ++ 0#12), (255#8 ++ 15#4 ++ 15#4 ++ 15#4 ++ 4088#12)⟩
  , ⟨.round, (50#8 ++ 0#4 ++ 0#4 ++ 0#4 ++ 0#12), (255#8 ++ 15#4 ++ 15#4 ++ 15#4 ++ 4088#12)⟩
  , ⟨.perm, (51#8 ++ 0#4 ++ 0#4 ++ 0#4 ++ 0#12), (255#8 ++ 15#4 ++ 15#4 ++ 15#4 ++ 4095#12)⟩ ] := by
  decide

/-- A register field masked with ones is zero only for register 0. -/
theorem regBits_eq_zero (a : RegIdx) : BitVec.ofNat 4 a.val = 0#4 ↔ a = 0 := by
  revert a
  decide

/-- The IMM bits BYTE does not use are zero exactly when IMM is its byte index (R84, R92). -/
theorem imm_and_4092 (x : BitVec 12) : x &&& 4092#12 = 0#12 ↔ x.toNat < 4 := by
  have hx : x = (x.extractLsb' 2 10 ++ x.extractLsb' 0 2 : BitVec 12) := by
    ext j hj
    rw [BitVec.getElem_append]
    interval_cases j <;> simp [BitVec.getLsbD_eq_getElem]
  have hm : 4092#12 = (BitVec.allOnes 10 ++ 0#2 : BitVec 12) := by decide
  have hz : 0#12 = (0#10 ++ 0#2 : BitVec 12) := by decide
  have ht : (x.extractLsb' 2 10).toNat = x.toNat / 4 := by
    have := x.isLt
    simp only [BitVec.extractLsb'_toNat, Nat.shiftRight_eq_div_pow]
    omega
  rw [hm, hz]
  conv_lhs => rw [hx]
  rw [BitVec.and_append, append_inj_iff, BitVec.and_allOnes, BitVec.and_zero, ← BitVec.toNat_inj, ht]
  simp

/-- The IMM bits ARC and ROUND do not use are zero exactly when IMM is below 8 (R84, R92). -/
theorem imm_and_4088 (x : BitVec 12) : x &&& 4088#12 = 0#12 ↔ x.toNat < 8 := by
  have hx : x = (x.extractLsb' 3 9 ++ x.extractLsb' 0 3 : BitVec 12) := by
    ext j hj
    rw [BitVec.getElem_append]
    interval_cases j <;> simp [BitVec.getLsbD_eq_getElem]
  have hm : 4088#12 = (BitVec.allOnes 9 ++ 0#3 : BitVec 12) := by decide
  have hz : 0#12 = (0#9 ++ 0#3 : BitVec 12) := by decide
  have ht : (x.extractLsb' 3 9).toNat = x.toNat / 8 := by
    have := x.isLt
    simp only [BitVec.extractLsb'_toNat, Nat.shiftRight_eq_div_pow]
    omega
  rw [hm, hz]
  conv_lhs => rw [hx]
  rw [BitVec.and_append, append_inj_iff, BitVec.and_allOnes, BitVec.and_zero, ← BitVec.toNat_inj, ht]
  simp

end Sys2Proof
end

