-- ==== Sys2Proof/Laws/Field.lean ====
section
/-!
SUPPORT. What the field and layer functions compute, as integers: one lemma per function, which the proofs cite in place of its
definition.
-/

namespace Sys2Proof.Machine

theorem P_lt : P < 2 ^ 64 := by decide

/-! ### Vectors -/

/-- Reading a tabulated vector gives the function's value. -/
theorem tabulate_getElem (f : RegIdx → Word) (i : RegIdx) : (tabulate f)[i] = f i := by
  fin_cases i <;> rfl

/-- The same in simp's normal form of an index. -/
@[simp] theorem tabulate_getElem_val (f : RegIdx → Word) (i : RegIdx) : (tabulate f)[i.val] = f i :=
  tabulate_getElem f i

/-- Two vectors with the same elements are equal. -/
theorem elems_ext {V W : Elems} (h : ∀ i : RegIdx, V[i] = W[i]) : V = W := by
  apply Vector.ext
  intro i hi
  exact h ⟨i, hi⟩

/-! ### Field functions -/

/-- R111. -/
@[simp] theorem reduce_toNat (x : Nat) : (reduce x).toNat = x % P := by
  have h : x % P < P := Nat.mod_lt _ (by decide)
  have h2 := P_lt
  simp only [reduce, BitVec.toNat_ofNat]
  exact Nat.mod_eq_of_lt (by omega)

/-- A reduced value is canonical (R21). -/
theorem canon_reduce (x : Nat) : canon (reduce x) := by
  rw [canon, reduce_toNat]
  exact Nat.mod_lt _ (by decide)

/-- R112. -/
@[simp] theorem fadd_toNat (a b : Word) : (fadd a b).toNat = (a.toNat + b.toNat) % P := reduce_toNat _

/-- R113. -/
@[simp] theorem fmul_toNat (a b : Word) : (fmul a b).toNat = a.toNat * b.toNat % P := reduce_toNat _

theorem canon_fadd (a b : Word) : canon (fadd a b) := canon_reduce _

theorem canon_fmul (a b : Word) : canon (fmul a b) := canon_reduce _

theorem canon_fpow7 (a : Word) : canon (fpow7 a) := canon_fmul _ _

/-- Any value below `2^48` is canonical. -/
theorem canon_of_lt {a : Word} (h : a.toNat < 2 ^ 48) : canon a := by
  have : (2 : Nat) ^ 48 < P := by decide
  exact Nat.lt_trans h this

/-- R114, the more significant half. -/
theorem toLimbs_hi_toNat (a : Word) : (toLimbs a).1.toNat = a.toNat / 2 ^ 32 := by
  have := a.isLt
  simp only [toLimbs, BitVec.extractLsb'_toNat, Nat.shiftRight_eq_div_pow]
  omega

/-- R114, the less significant half. -/
theorem toLimbs_lo_toNat (a : Word) : (toLimbs a).2.toNat = a.toNat % 2 ^ 32 := by
  simp [toLimbs, BitVec.extractLsb'_toNat]

/-- R115. -/
theorem fromLimbs_toNat (h l : Limb) : (fromLimbs h l).toNat = h.toNat * 2 ^ 32 + l.toNat := by
  have := l.isLt
  rw [fromLimbs, BitVec.toNat_append, Nat.shiftLeft_eq, Nat.mul_comm h.toNat, ← Nat.two_pow_add_eq_or_of_lt this]

/-! ### Lookup -/

/-- R142, with the carry-free bound of R143. -/
theorem halfSbox_toNat (rom : Rom) (h : Limb) :
    (halfSbox rom h).toNat =
      (lookup rom (BitVec.ofNat 8 (h.toNat / 256 % 256))).toNat * 256 +
        (lookup rom (BitVec.ofNat 8 (h.toNat % 256))).toNat := by
  have h1 := (lookup rom (BitVec.ofNat 8 (h.toNat / 256 % 256))).isLt
  have h2 := (lookup rom (BitVec.ofNat 8 (h.toNat % 256))).isLt
  simp only [halfSbox, BitVec.toNat_ofNat]
  omega

/-- R143: a reassembled half is below `2^16`. -/
theorem halfSbox_lt (rom : Rom) (h : Limb) : (halfSbox rom h).toNat < 2 ^ 16 := by
  have h1 := (lookup rom (BitVec.ofNat 8 (h.toNat / 256 % 256))).isLt
  have h2 := (lookup rom (BitVec.ofNat 8 (h.toNat % 256))).isLt
  rw [halfSbox_toNat]
  omega

/-- A coefficient as a number (R38). -/
@[simp] theorem coeff_toNat (rom : Rom) (k : Fin 16) : (coeff rom k).toNat = (rom.mdsCoeff k).val := by
  have := (rom.mdsCoeff k).isLt
  have h2 := P_lt
  simp only [coeff, BitVec.toNat_ofNat]
  exact Nat.mod_eq_of_lt (by omega)

/-- A round constant as a number (R39). -/
@[simp] theorem rc_toNat (rom : Rom) (r : Fin 5) (i : RegIdx) : (rc rom r i).toNat = (rom.rcFlat (rcEntry r i)).val := by
  have := (rom.rcFlat (rcEntry r i)).isLt
  have h2 := P_lt
  simp only [rc, BitVec.toNat_ofNat]
  exact Nat.mod_eq_of_lt (by omega)

/-! ### Layers -/

theorem sboxLayer_getElem (rom : Rom) (V : Elems) (i : RegIdx) :
    (sboxLayer rom V)[i] = if i.val < 4 then lookupSbox rom V[i] else fpow7 V[i] := by
  simp [sboxLayer]

theorem mdsMultiply_getElem (rom : Rom) (V : Elems) (i : RegIdx) : (mdsMultiply rom V)[i] = mdsRow rom V i := by
  simp [mdsMultiply]

theorem addRc_getElem (rom : Rom) (V : Elems) (r : Fin 5) (i : RegIdx) :
    (addRc rom V r)[i] = fadd V[i] (rc rom r i) := by
  simp [addRc]

/-! ### Whole-word forms -/

/-- The four bytes of a limb (R116). -/
theorem toBytes_toNat (l : Limb) (k : Fin 4) : (toBytes l)[k].toNat = l.toNat / 2 ^ (8 * k.val) % 2 ^ 8 := by
  fin_cases k <;> simp [toBytes, BitVec.extractLsb'_toNat, Nat.shiftRight_eq_div_pow]

/-- R142 on a whole element. -/
theorem lookupSbox_toNat (rom : Rom) (a : Word) :
    (lookupSbox rom a).toNat =
      ((lookup rom (BitVec.ofNat 8 (a.toNat / 2 ^ 40 % 256))).toNat * 256 +
        (lookup rom (BitVec.ofNat 8 (a.toNat / 2 ^ 32 % 256))).toNat) * 2 ^ 32 +
      ((lookup rom (BitVec.ofNat 8 (a.toNat / 2 ^ 8 % 256))).toNat * 256 +
        (lookup rom (BitVec.ofNat 8 (a.toNat % 256))).toNat) := by
  rw [lookupSbox, fromLimbs_toNat, halfSbox_toNat, halfSbox_toNat, toLimbs_hi_toNat, toLimbs_lo_toNat]
  have e1 : a.toNat / 2 ^ 32 / 256 % 256 = a.toNat / 2 ^ 40 % 256 := by omega
  have e2 : a.toNat % 2 ^ 32 / 256 % 256 = a.toNat / 2 ^ 8 % 256 := by omega
  have e3 : a.toNat % 2 ^ 32 % 256 = a.toNat % 256 := by omega
  rw [e1, e2, e3]

/-- R143: the result of the Split-and-Lookup S-box is canonical. -/
theorem canon_lookupSbox (rom : Rom) (a : Word) : canon (lookupSbox rom a) := by
  apply canon_of_lt
  have h1 := halfSbox_lt rom (toLimbs a).1
  have h2 := halfSbox_lt rom (toLimbs a).2
  rw [lookupSbox, fromLimbs_toNat]
  omega

/-- A chain of field additions is the sum modulo P (R172). -/
theorem foldl_fadd_toNat (f : RegIdx → Word) (l : List RegIdx) (acc : Word) :
    (l.foldl (fun acc j => fadd acc (f j)) acc).toNat % P = (acc.toNat + (l.map fun j => (f j).toNat).sum) % P := by
  induction l generalizing acc with
  | nil => simp
  | cons x xs ih =>
    simp only [List.foldl_cons, ih, fadd_toNat, List.map_cons, List.sum_cons]
    rw [Nat.mod_add_mod]
    congr 1
    omega

/-- The coefficient index `(j - i) mod 16` of R171. -/
theorem fin_sub_eq (i j : Fin 16) : j - i = Fin.ofNat 16 (j.val + 16 - i.val) := by
  revert i j
  decide

theorem canon_mdsRow (rom : Rom) (V : Elems) (i : RegIdx) : canon (mdsRow rom V i) := by
  simp only [mdsRow, positions, List.foldl_cons, List.foldl_nil]
  exact canon_fadd _ _

/-- A row of the circulant product as a sum (R171, R172). -/
theorem mdsRow_toNat (rom : Rom) (V : Elems) (i : RegIdx) :
    (mdsRow rom V i).toNat =
      (∑ j : Fin 16, (rom.mdsCoeff (Fin.ofNat 16 (j.val + 16 - i.val))).val * V[j].toNat) % P := by
  have hp : positions = List.finRange 16 := by decide
  rw [← Nat.mod_eq_of_lt (canon_mdsRow rom V i), mdsRow, foldl_fadd_toNat (fun j => fmul (coeff rom (j - i)) V[j]), hp,
    show (0 : Word).toNat = 0 from rfl, Nat.zero_add, ← List.sum_ofFn]
  simp only [List.ofFn_eq_map, fmul_toNat, coeff_toNat, fin_sub_eq]
  rw [List.sum_nat_mod]
  conv_rhs => rw [List.sum_nat_mod]
  congr 2
  simp [List.map_map, Function.comp_def]

/-! ### Canonical vectors (R21) -/

theorem canonVec_tabulate {f : RegIdx → Word} (h : ∀ i, canon (f i)) (i : RegIdx) : canon (tabulate f)[i] := by
  rw [tabulate_getElem]
  exact h i

theorem canonVec_set {V : Elems} (h : ∀ i : RegIdx, canon V[i]) (i : RegIdx) {v : Word} (hv : canon v) (j : RegIdx) :
    canon (V.set i v)[j] := by
  show canon (V.set i.val v)[j.val]
  rw [Vector.getElem_set]
  split
  · exact hv
  · exact h j

theorem canonVec_sboxLayer (rom : Rom) (V : Elems) (i : RegIdx) : canon (sboxLayer rom V)[i] := by
  rw [sboxLayer_getElem]
  split
  · exact canon_lookupSbox _ _
  · exact canon_fpow7 _

theorem canonVec_mdsMultiply (rom : Rom) (V : Elems) (i : RegIdx) : canon (mdsMultiply rom V)[i] := by
  rw [mdsMultiply_getElem]
  exact canon_mdsRow _ _ _

theorem canonVec_addRc (rom : Rom) (V : Elems) (r : Fin 5) (i : RegIdx) : canon (addRc rom V r)[i] := by
  rw [addRc_getElem]
  exact canon_fadd _ _

end Sys2Proof.Machine
end

