-- ==== Sys2Proof/Laws/State.lean ====
section
/-!
SUPPORT. One lemma per field and update of the state, each true by rfl, so that no proof unfolds a record update; then the lemmas
of the status register and of register reads.
-/

namespace Sys2Proof.Machine

variable (s : State)

/-! ### setReg -/

@[simp] theorem State.setReg_regs (i : RegIdx) (v : Word) : (s.setReg i v).regs = s.regs.set i v := rfl
@[simp] theorem State.setReg_status (i : RegIdx) (v : Word) : (s.setReg i v).status = s.status := rfl
@[simp] theorem State.setReg_ph (i : RegIdx) (v : Word) : (s.setReg i v).ph = s.ph := rfl
@[simp] theorem State.setReg_rnd (i : RegIdx) (v : Word) : (s.setReg i v).rnd = s.rnd := rfl
@[simp] theorem State.setReg_last (i : RegIdx) (v : Word) : (s.setReg i v).last = s.last := rfl
@[simp] theorem State.setReg_work (i : RegIdx) (v : Word) : (s.setReg i v).work = s.work := rfl
@[simp] theorem State.setReg_left (i : RegIdx) (v : Word) : (s.setReg i v).left = s.left := rfl
@[simp] theorem State.setReg_cmd (i : RegIdx) (v : Word) : (s.setReg i v).cmd = s.cmd := rfl
@[simp] theorem State.setReg_cmdData (i : RegIdx) (v : Word) : (s.setReg i v).cmdData = s.cmdData := rfl
@[simp] theorem State.setReg_rsp (i : RegIdx) (v : Word) : (s.setReg i v).rsp = s.rsp := rfl
@[simp] theorem State.setReg_host (i : RegIdx) (v : Word) : (s.setReg i v).host = s.host := rfl
@[simp] theorem State.setReg_freeIdx (i : RegIdx) (v : Word) : (s.setReg i v).freeIdx = s.freeIdx := rfl

/-! ### commit -/

@[simp] theorem State.commit_regs (V : Elems) : (s.commit V).regs = V := rfl
@[simp] theorem State.commit_status (V : Elems) : (s.commit V).status = s.status := rfl
@[simp] theorem State.commit_ph (V : Elems) : (s.commit V).ph = s.ph := rfl
@[simp] theorem State.commit_rnd (V : Elems) : (s.commit V).rnd = s.rnd := rfl
@[simp] theorem State.commit_last (V : Elems) : (s.commit V).last = s.last := rfl
@[simp] theorem State.commit_work (V : Elems) : (s.commit V).work = V := rfl
@[simp] theorem State.commit_left (V : Elems) : (s.commit V).left = s.left := rfl
@[simp] theorem State.commit_cmd (V : Elems) : (s.commit V).cmd = s.cmd := rfl
@[simp] theorem State.commit_cmdData (V : Elems) : (s.commit V).cmdData = s.cmdData := rfl
@[simp] theorem State.commit_rsp (V : Elems) : (s.commit V).rsp = s.rsp := rfl
@[simp] theorem State.commit_host (V : Elems) : (s.commit V).host = s.host := rfl
@[simp] theorem State.commit_freeIdx (V : Elems) : (s.commit V).freeIdx = s.freeIdx := rfl

/-! ### clearError -/

@[simp] theorem State.clearError_regs : s.clearError.regs = s.regs := rfl
@[simp] theorem State.clearError_status : s.clearError.status = s.status.clear := rfl
@[simp] theorem State.clearError_ph : s.clearError.ph = s.ph := rfl
@[simp] theorem State.clearError_rnd : s.clearError.rnd = s.rnd := rfl
@[simp] theorem State.clearError_last : s.clearError.last = s.last := rfl
@[simp] theorem State.clearError_work : s.clearError.work = s.work := rfl
@[simp] theorem State.clearError_left : s.clearError.left = s.left := rfl
@[simp] theorem State.clearError_cmd : s.clearError.cmd = s.cmd := rfl
@[simp] theorem State.clearError_cmdData : s.clearError.cmdData = s.cmdData := rfl
@[simp] theorem State.clearError_rsp : s.clearError.rsp = s.rsp := rfl
@[simp] theorem State.clearError_host : s.clearError.host = s.host := rfl
@[simp] theorem State.clearError_freeIdx : s.clearError.freeIdx = s.freeIdx := rfl

/-! ### respond -/

@[simp] theorem State.respond_regs (v : Word) : (s.respond v).regs = s.regs := rfl
@[simp] theorem State.respond_status (v : Word) : (s.respond v).status = s.status := rfl
@[simp] theorem State.respond_ph (v : Word) : (s.respond v).ph = s.ph := rfl
@[simp] theorem State.respond_rnd (v : Word) : (s.respond v).rnd = s.rnd := rfl
@[simp] theorem State.respond_last (v : Word) : (s.respond v).last = s.last := rfl
@[simp] theorem State.respond_work (v : Word) : (s.respond v).work = s.work := rfl
@[simp] theorem State.respond_left (v : Word) : (s.respond v).left = s.left := rfl
@[simp] theorem State.respond_cmd (v : Word) : (s.respond v).cmd = s.cmd := rfl
@[simp] theorem State.respond_cmdData (v : Word) : (s.respond v).cmdData = s.cmdData := rfl
@[simp] theorem State.respond_rsp (v : Word) : (s.respond v).rsp = some v := rfl
@[simp] theorem State.respond_host (v : Word) : (s.respond v).host = s.host := rfl
@[simp] theorem State.respond_freeIdx (v : Word) : (s.respond v).freeIdx = s.freeIdx := rfl

/-! ### schedule -/

@[simp] theorem State.schedule_regs (r l : Fin 5) : (s.schedule r l).regs = s.regs := rfl
@[simp] theorem State.schedule_status (r l : Fin 5) : (s.schedule r l).status = s.status := rfl
@[simp] theorem State.schedule_ph (r l : Fin 5) : (s.schedule r l).ph = s.ph := rfl
@[simp] theorem State.schedule_rnd (r l : Fin 5) : (s.schedule r l).rnd = r := rfl
@[simp] theorem State.schedule_last (r l : Fin 5) : (s.schedule r l).last = l := rfl
@[simp] theorem State.schedule_work (r l : Fin 5) : (s.schedule r l).work = s.work := rfl
@[simp] theorem State.schedule_left (r l : Fin 5) : (s.schedule r l).left = s.left := rfl
@[simp] theorem State.schedule_cmd (r l : Fin 5) : (s.schedule r l).cmd = s.cmd := rfl
@[simp] theorem State.schedule_cmdData (r l : Fin 5) : (s.schedule r l).cmdData = s.cmdData := rfl
@[simp] theorem State.schedule_rsp (r l : Fin 5) : (s.schedule r l).rsp = s.rsp := rfl
@[simp] theorem State.schedule_host (r l : Fin 5) : (s.schedule r l).host = s.host := rfl
@[simp] theorem State.schedule_freeIdx (r l : Fin 5) : (s.schedule r l).freeIdx = s.freeIdx := rfl

/-! ### endCycle -/

@[simp] theorem State.endCycle_regs : s.endCycle.regs = s.regs := rfl
@[simp] theorem State.endCycle_status : s.endCycle.status = s.status := rfl
@[simp] theorem State.endCycle_ph : s.endCycle.ph = s.ph := rfl
@[simp] theorem State.endCycle_rnd : s.endCycle.rnd = s.rnd := rfl
@[simp] theorem State.endCycle_last : s.endCycle.last = s.last := rfl
@[simp] theorem State.endCycle_work : s.endCycle.work = s.work := rfl
@[simp] theorem State.endCycle_left : s.endCycle.left = s.left := rfl
@[simp] theorem State.endCycle_cmd : s.endCycle.cmd = s.cmd := rfl
@[simp] theorem State.endCycle_cmdData : s.endCycle.cmdData = s.cmdData := rfl
@[simp] theorem State.endCycle_rsp : s.endCycle.rsp = none := rfl
@[simp] theorem State.endCycle_host : s.endCycle.host = s.host := rfl
@[simp] theorem State.endCycle_freeIdx : s.endCycle.freeIdx = s.freeIdx + 1 := rfl

/-! ### accept -/

@[simp] theorem State.accept_regs (w : CmdWord) (d : Word) : (s.accept w d).regs = s.regs := rfl
@[simp] theorem State.accept_status (w : CmdWord) (d : Word) : (s.accept w d).status = s.status := rfl
@[simp] theorem State.accept_ph (w : CmdWord) (d : Word) : (s.accept w d).ph = s.ph := rfl
@[simp] theorem State.accept_rnd (w : CmdWord) (d : Word) : (s.accept w d).rnd = s.rnd := rfl
@[simp] theorem State.accept_last (w : CmdWord) (d : Word) : (s.accept w d).last = s.last := rfl
@[simp] theorem State.accept_work (w : CmdWord) (d : Word) : (s.accept w d).work = s.work := rfl
@[simp] theorem State.accept_left (w : CmdWord) (d : Word) : (s.accept w d).left = s.left := rfl
@[simp] theorem State.accept_cmd (w : CmdWord) (d : Word) : (s.accept w d).cmd = w := rfl
@[simp] theorem State.accept_cmdData (w : CmdWord) (d : Word) : (s.accept w d).cmdData = d := rfl
@[simp] theorem State.accept_rsp (w : CmdWord) (d : Word) : (s.accept w d).rsp = none := rfl
@[simp] theorem State.accept_host (w : CmdWord) (d : Word) : (s.accept w d).host = s.host := rfl
@[simp] theorem State.accept_freeIdx (w : CmdWord) (d : Word) : (s.accept w d).freeIdx = s.freeIdx + 1 := rfl

/-! ### resetEdge -/

@[simp] theorem State.resetEdge_regs : s.resetEdge.regs = Vector.replicate 16 0 := rfl
@[simp] theorem State.resetEdge_status : s.resetEdge.status = Status.reset := rfl
@[simp] theorem State.resetEdge_ph : s.resetEdge.ph = .idle := rfl
@[simp] theorem State.resetEdge_rnd : s.resetEdge.rnd = 0 := rfl
@[simp] theorem State.resetEdge_last : s.resetEdge.last = 0 := rfl
@[simp] theorem State.resetEdge_work : s.resetEdge.work = Vector.replicate 16 0 := rfl
@[simp] theorem State.resetEdge_left : s.resetEdge.left = 0 := rfl
@[simp] theorem State.resetEdge_cmd : s.resetEdge.cmd = 0 := rfl
@[simp] theorem State.resetEdge_cmdData : s.resetEdge.cmdData = 0 := rfl
@[simp] theorem State.resetEdge_rsp : s.resetEdge.rsp = none := rfl
@[simp] theorem State.resetEdge_host : s.resetEdge.host = s.host := rfl
@[simp] theorem State.resetEdge_freeIdx : s.resetEdge.freeIdx = s.freeIdx + 1 := rfl

/-! ### enter -/

@[simp] theorem State.enter_regs (p : Phase) (n : Nat) : (s.enter p n).regs = s.regs := rfl
@[simp] theorem State.enter_status (p : Phase) (n : Nat) : (s.enter p n).status = s.status.setBusy true := rfl
@[simp] theorem State.enter_ph (p : Phase) (n : Nat) : (s.enter p n).ph = p := rfl
@[simp] theorem State.enter_rnd (p : Phase) (n : Nat) : (s.enter p n).rnd = s.rnd := rfl
@[simp] theorem State.enter_last (p : Phase) (n : Nat) : (s.enter p n).last = s.last := rfl
@[simp] theorem State.enter_work (p : Phase) (n : Nat) : (s.enter p n).work = s.work := rfl
@[simp] theorem State.enter_left (p : Phase) (n : Nat) : (s.enter p n).left = n := rfl
@[simp] theorem State.enter_cmd (p : Phase) (n : Nat) : (s.enter p n).cmd = s.cmd := rfl
@[simp] theorem State.enter_cmdData (p : Phase) (n : Nat) : (s.enter p n).cmdData = s.cmdData := rfl
@[simp] theorem State.enter_rsp (p : Phase) (n : Nat) : (s.enter p n).rsp = s.rsp := rfl
@[simp] theorem State.enter_host (p : Phase) (n : Nat) : (s.enter p n).host = s.host := rfl
@[simp] theorem State.enter_freeIdx (p : Phase) (n : Nat) : (s.enter p n).freeIdx = s.freeIdx := rfl

/-! ### loadWork -/

@[simp] theorem State.loadWork_regs : s.loadWork.regs = s.regs := rfl
@[simp] theorem State.loadWork_status : s.loadWork.status = s.status := rfl
@[simp] theorem State.loadWork_ph : s.loadWork.ph = s.ph := rfl
@[simp] theorem State.loadWork_rnd : s.loadWork.rnd = s.rnd := rfl
@[simp] theorem State.loadWork_last : s.loadWork.last = s.last := rfl
@[simp] theorem State.loadWork_work : s.loadWork.work = s.regs := rfl
@[simp] theorem State.loadWork_left : s.loadWork.left = s.left := rfl
@[simp] theorem State.loadWork_cmd : s.loadWork.cmd = s.cmd := rfl
@[simp] theorem State.loadWork_cmdData : s.loadWork.cmdData = s.cmdData := rfl
@[simp] theorem State.loadWork_rsp : s.loadWork.rsp = s.rsp := rfl
@[simp] theorem State.loadWork_host : s.loadWork.host = s.host := rfl
@[simp] theorem State.loadWork_freeIdx : s.loadWork.freeIdx = s.freeIdx := rfl

/-! ### withError -/

@[simp] theorem State.withError_regs (c : BitVec 4) (w : CmdWord) : (s.withError c w).regs = s.regs := rfl
@[simp] theorem State.withError_status (c : BitVec 4) (w : CmdWord) : (s.withError c w).status = { busy := s.status.busy, err := true, ecode := c, ecmd := w } := rfl
@[simp] theorem State.withError_ph (c : BitVec 4) (w : CmdWord) : (s.withError c w).ph = s.ph := rfl
@[simp] theorem State.withError_rnd (c : BitVec 4) (w : CmdWord) : (s.withError c w).rnd = s.rnd := rfl
@[simp] theorem State.withError_last (c : BitVec 4) (w : CmdWord) : (s.withError c w).last = s.last := rfl
@[simp] theorem State.withError_work (c : BitVec 4) (w : CmdWord) : (s.withError c w).work = s.work := rfl
@[simp] theorem State.withError_left (c : BitVec 4) (w : CmdWord) : (s.withError c w).left = s.left := rfl
@[simp] theorem State.withError_cmd (c : BitVec 4) (w : CmdWord) : (s.withError c w).cmd = s.cmd := rfl
@[simp] theorem State.withError_cmdData (c : BitVec 4) (w : CmdWord) : (s.withError c w).cmdData = s.cmdData := rfl
@[simp] theorem State.withError_rsp (c : BitVec 4) (w : CmdWord) : (s.withError c w).rsp = s.rsp := rfl
@[simp] theorem State.withError_host (c : BitVec 4) (w : CmdWord) : (s.withError c w).host = s.host := rfl
@[simp] theorem State.withError_freeIdx (c : BitVec 4) (w : CmdWord) : (s.withError c w).freeIdx = s.freeIdx := rfl

/-! ### accepted -/

@[simp] theorem State.accepted_regs (w : CmdWord) (d : Word) (rest : List HostAct) : (s.accepted w d rest).regs = s.regs := rfl
@[simp] theorem State.accepted_status (w : CmdWord) (d : Word) (rest : List HostAct) : (s.accepted w d rest).status = s.status := rfl
@[simp] theorem State.accepted_ph (w : CmdWord) (d : Word) (rest : List HostAct) : (s.accepted w d rest).ph = s.ph := rfl
@[simp] theorem State.accepted_rnd (w : CmdWord) (d : Word) (rest : List HostAct) : (s.accepted w d rest).rnd = s.rnd := rfl
@[simp] theorem State.accepted_last (w : CmdWord) (d : Word) (rest : List HostAct) : (s.accepted w d rest).last = s.last := rfl
@[simp] theorem State.accepted_work (w : CmdWord) (d : Word) (rest : List HostAct) : (s.accepted w d rest).work = s.work := rfl
@[simp] theorem State.accepted_left (w : CmdWord) (d : Word) (rest : List HostAct) : (s.accepted w d rest).left = s.left := rfl
@[simp] theorem State.accepted_cmd (w : CmdWord) (d : Word) (rest : List HostAct) : (s.accepted w d rest).cmd = w := rfl
@[simp] theorem State.accepted_cmdData (w : CmdWord) (d : Word) (rest : List HostAct) : (s.accepted w d rest).cmdData = d := rfl
@[simp] theorem State.accepted_rsp (w : CmdWord) (d : Word) (rest : List HostAct) : (s.accepted w d rest).rsp = none := rfl
@[simp] theorem State.accepted_host (w : CmdWord) (d : Word) (rest : List HostAct) : (s.accepted w d rest).host = rest := rfl
@[simp] theorem State.accepted_freeIdx (w : CmdWord) (d : Word) (rest : List HostAct) : (s.accepted w d rest).freeIdx = s.freeIdx + 1 := rfl

/-! ### Status -/

@[simp] theorem Status.record_busy (st : Status) (e : ErrCause) (w : CmdWord) : (st.record e w).busy = st.busy := rfl
@[simp] theorem Status.record_err (st : Status) (e : ErrCause) (w : CmdWord) : (st.record e w).err = true := rfl
@[simp] theorem Status.record_ecode (st : Status) (e : ErrCause) (w : CmdWord) : (st.record e w).ecode = e.code := rfl
@[simp] theorem Status.record_ecmd (st : Status) (e : ErrCause) (w : CmdWord) : (st.record e w).ecmd = w := rfl
@[simp] theorem Status.clear_busy (st : Status) : st.clear.busy = st.busy := rfl
@[simp] theorem Status.clear_err (st : Status) : st.clear.err = false := rfl
@[simp] theorem Status.clear_ecode (st : Status) : st.clear.ecode = 0 := rfl
@[simp] theorem Status.clear_ecmd (st : Status) : st.clear.ecmd = 0 := rfl
@[simp] theorem Status.setBusy_busy (st : Status) (b : Bool) : (st.setBusy b).busy = b := rfl
@[simp] theorem Status.setBusy_err (st : Status) (b : Bool) : (st.setBusy b).err = st.err := rfl
@[simp] theorem Status.setBusy_ecode (st : Status) (b : Bool) : (st.setBusy b).ecode = st.ecode := rfl
@[simp] theorem Status.setBusy_ecmd (st : Status) (b : Bool) : (st.setBusy b).ecmd = st.ecmd := rfl
@[simp] theorem Status.reset_busy : Status.reset.busy = false := rfl
@[simp] theorem Status.reset_err : Status.reset.err = false := rfl
@[simp] theorem Status.reset_ecode : Status.reset.ecode = 0 := rfl
@[simp] theorem Status.reset_ecmd : Status.reset.ecmd = 0 := rfl

/-! ### Register reads -/

/-- A register read after a write to the same register gives the value written. -/
@[simp] theorem State.reg_setReg_self (i : RegIdx) (v : Word) : (s.setReg i v).reg i = v := by
  simp [State.reg]

/-- A write leaves every other register alone. -/
theorem State.reg_setReg_of_ne {i j : RegIdx} (v : Word) (h : j ≠ i) : (s.setReg i v).reg j = s.reg j := by
  have : i.val ≠ j.val := fun e => h (Fin.ext e.symm)
  simp [State.reg, this]

/-- Registers are read from the register file alone. -/
theorem State.reg_congr {s t : State} (h : s.regs = t.regs) (i : RegIdx) : s.reg i = t.reg i := by
  simp [State.reg, h]

@[simp] theorem State.reg_commit (V : Elems) (i : RegIdx) : (s.commit V).reg i = V[i] := rfl

/-- Writing one register is within the frame of that register. -/
theorem State.changesOnlyReg_setReg (i : RegIdx) (v : Word) : s.ChangesOnlyReg (s.setReg i v) i :=
  ⟨fun _ h => s.reg_setReg_of_ne v h, rfl⟩

/-- Writing all registers, and scheduling a round, is within the frame of the state file. -/
theorem State.changesOnlyStateFile_commit (V : Elems) : s.ChangesOnlyStateFile (s.commit V) := rfl

theorem State.changesOnlyStateFile_schedule_commit (r l : Fin 5) (V : Elems) :
    s.ChangesOnlyStateFile ((s.schedule r l).commit V) := rfl

@[simp] theorem State.isIdle_iff : s.isIdle = true ↔ s.ph = .idle := by
  simp [State.isIdle]

end Sys2Proof.Machine
end

