-- ==== Sys2Proof/Laws/Ops.lean ====
section
/-!
SUPPORT. What each shared operation can do, said once: the proofs cite these lemmas and do not unfold the operations.
-/

namespace Sys2Proof.Machine

variable {s s' : State}

/-- With ERR = 0 an error is recorded (R232). -/
theorem State.raise_of_clear (h : s.status.err = false) (e : ErrCause) (w : CmdWord) :
    s.raise e w = s.withError e.code w := by
  simp [State.raise, h, State.withError, Status.record]

/-- With ERR = 1 nothing happens (R237). -/
theorem State.raise_of_set (h : s.status.err = true) (e : ErrCause) (w : CmdWord) : s.raise e w = s := by
  simp [State.raise, h]

/-- An unchecked command executes while ERR = 0. -/
theorem State.unlessError_of_clear (h : s.status.err = false) : s.unlessError s' = .next s' := by
  simp [State.unlessError, h]

/-- A command is dropped while ERR = 1 (R235). -/
theorem State.unlessError_of_set (h : s.status.err = true) : s.unlessError s' = .next s := by
  simp [State.unlessError, h]

/-- An operand check that passes. -/
@[simp] theorem State.checked_none (w : CmdWord) : s.checked none w s' = s' := rfl

/-- An operand check that fails. -/
@[simp] theorem State.checked_some (e : ErrCause) (w : CmdWord) : s.checked (some e) w s' = s.raise e w := rfl

/-- What a guarded command can do: it is dropped, it records an error, or it has its effect. -/
theorem State.unlessError_checked_cases (c : Option ErrCause) (w : CmdWord) {t : State}
    (h : s.unlessError (s.checked c w s') = .next t) :
    (s.status.err = true ∧ t = s) ∨
    (s.status.err = false ∧ ∃ e, c = some e ∧ t = s.withError e.code w) ∨
    (s.status.err = false ∧ c = none ∧ t = s') := by
  cases he : s.status.err with
  | true =>
    rw [State.unlessError_of_set he] at h
    exact .inl ⟨rfl, (by injection h with h; exact h.symm)⟩
  | false =>
    rw [State.unlessError_of_clear he] at h
    injection h with h
    cases c with
    | none => exact .inr (.inr ⟨rfl, rfl, h.symm⟩)
    | some e => exact .inr (.inl ⟨rfl, e, rfl, by rw [← h, State.checked_some, State.raise_of_clear he]⟩)

/-- What the operand check at the accepting edge can do (R231, R232, R238). -/
theorem State.checkOperands_eq (h : s.status.err = false) (i : Instr) :
    s.checkOperands i = match operandCheck i s with
      | none => s
      | some e => s.withError e.code (encode i) := by
  unfold State.checkOperands
  cases operandCheck i s with
  | none => rfl
  | some e => exact State.raise_of_clear h e _

/-- Afterwards ERR says whether the check failed. -/
theorem State.checkOperands_err (h : s.status.err = false) (i : Instr) :
    (s.checkOperands i).status.err = (operandCheck i s).isSome := by
  rw [State.checkOperands_eq h]
  cases operandCheck i s with
  | none => exact h
  | some e => rfl

/-- Nothing but STATUS changes. -/
theorem State.checkOperands_frame (i : Instr) :
    s.checkOperands i = { s with status := (s.checkOperands i).status } := by
  unfold State.checkOperands
  cases operandCheck i s with
  | none => rfl
  | some e => cases he : s.status.err <;> simp [State.raise, he]

/-- The round index of a legal ARC or ROUND. -/
theorem roundIndex?_of_le {r : Fin 8} (h : r.val ≤ 4) : roundIndex? r = some ⟨r.val, by omega⟩ := by
  simp [roundIndex?, Nat.lt_succ_of_le h]

theorem roundIndex?_of_gt {r : Fin 8} (h : 4 < r.val) : roundIndex? r = none := by
  simp [roundIndex?]
  omega

/-- An idle unit has nothing to settle. -/
theorem State.settle_of_idle (h : s.ph = .idle) : s.settle = s := by
  simp [State.settle, State.drain, h]

/-- One transition, then the rest. -/
theorem State.drain_succ_of_busy (n : Nat) (h : s.ph ≠ .idle) : s.drain (n + 1) = s.advance.drain n := by
  simp [State.drain, h]

/-- An idle unit stays as it is. -/
@[simp] theorem State.drain_of_idle (n : Nat) (h : s.ph = .idle) : s.drain n = s := by
  cases n <;> simp [State.drain, h]

end Sys2Proof.Machine
end

