-- ==== Sys2Proof/Laws/PerInstr.lean ====
section
/-!
SUPPORT. A statement made per command: its word fits the row of the match and mask table that carries its mnemonic, and no
other (R89, R92). One lemma per constructor.
-/

namespace Sys2Proof

/-- The row of R92 that carries the command's mnemonic. -/
def opOf : Instr → Op
  | .nop => .nop
  | .wrs _ => .wrs
  | .rds _ => .rds
  | .rdstat => .rdstat
  | .clrerr => .clrerr
  | .fadd _ _ _ => .fadd
  | .fmul _ _ _ => .fmul
  | .limbhi _ _ => .limbhi
  | .limblo _ _ => .limblo
  | .fromlimbs _ _ _ => .fromlimbs
  | .byte _ _ _ => .byte
  | .lut _ _ => .lut
  | .sbl _ _ => .sbl
  | .sbp _ _ => .sbp
  | .sbox => .sbox
  | .mds => .mds
  | .arc _ => .arc
  | .round _ => .round
  | .perm => .perm

theorem and_255 (x : BitVec 8) : x &&& 255#8 = x := BitVec.and_allOnes

theorem and_15 (x : BitVec 4) : x &&& 15#4 = x := BitVec.and_allOnes

theorem and_4095 (x : BitVec 12) : x &&& 4095#12 = x := BitVec.and_allOnes

theorem byteImm (k : Fin 4) : BitVec.ofNat 12 k.val &&& 4092#12 = 0#12 := by
  revert k
  decide

theorem roundImm (r : Fin 8) : BitVec.ofNat 12 r.val &&& 4088#12 = 0#12 := by
  revert r
  decide

end Sys2Proof

namespace Sys2Proof.Laws.Matches

/-- The word of the command fits exactly the rows that carry its mnemonic. -/
def Statement (i : Instr) : Prop := ∀ r ∈ rows, r.fits (encode i) = true ↔ r.op = opOf i

theorem nop : Statement (.nop) := by
  simp only [Statement, rows_fields, List.forall_mem_cons, encode, opOf, fits_assembleWord, and_255, and_15, and_4095]
  simp (decide := true)

theorem wrs (rd : RegIdx) : Statement (.wrs rd) := by
  simp only [Statement, rows_fields, List.forall_mem_cons, encode, opOf, fits_assembleWord, and_255, and_15, and_4095]
  simp (decide := true)

theorem rds (rs1 : RegIdx) : Statement (.rds rs1) := by
  simp only [Statement, rows_fields, List.forall_mem_cons, encode, opOf, fits_assembleWord, and_255, and_15, and_4095]
  simp (decide := true)

theorem rdstat : Statement (.rdstat) := by
  simp only [Statement, rows_fields, List.forall_mem_cons, encode, opOf, fits_assembleWord, and_255, and_15, and_4095]
  simp (decide := true)

theorem clrerr : Statement (.clrerr) := by
  simp only [Statement, rows_fields, List.forall_mem_cons, encode, opOf, fits_assembleWord, and_255, and_15, and_4095]
  simp (decide := true)

theorem fadd (rd : RegIdx) (rs1 : RegIdx) (rs2 : RegIdx) : Statement (.fadd rd rs1 rs2) := by
  simp only [Statement, rows_fields, List.forall_mem_cons, encode, opOf, fits_assembleWord, and_255, and_15, and_4095]
  simp (decide := true)

theorem fmul (rd : RegIdx) (rs1 : RegIdx) (rs2 : RegIdx) : Statement (.fmul rd rs1 rs2) := by
  simp only [Statement, rows_fields, List.forall_mem_cons, encode, opOf, fits_assembleWord, and_255, and_15, and_4095]
  simp (decide := true)

theorem limbhi (rd : RegIdx) (rs1 : RegIdx) : Statement (.limbhi rd rs1) := by
  simp only [Statement, rows_fields, List.forall_mem_cons, encode, opOf, fits_assembleWord, and_255, and_15, and_4095]
  simp (decide := true)

theorem limblo (rd : RegIdx) (rs1 : RegIdx) : Statement (.limblo rd rs1) := by
  simp only [Statement, rows_fields, List.forall_mem_cons, encode, opOf, fits_assembleWord, and_255, and_15, and_4095]
  simp (decide := true)

theorem fromlimbs (rd : RegIdx) (rs1 : RegIdx) (rs2 : RegIdx) : Statement (.fromlimbs rd rs1 rs2) := by
  simp only [Statement, rows_fields, List.forall_mem_cons, encode, opOf, fits_assembleWord, and_255, and_15, and_4095]
  simp (decide := true)

theorem byte (rd : RegIdx) (rs1 : RegIdx) (k : Fin 4) : Statement (.byte rd rs1 k) := by
  simp only [Statement, rows_fields, List.forall_mem_cons, encode, opOf, fits_assembleWord, and_255, and_15, and_4095, byteImm]
  simp (decide := true)

theorem lut (rd : RegIdx) (rs1 : RegIdx) : Statement (.lut rd rs1) := by
  simp only [Statement, rows_fields, List.forall_mem_cons, encode, opOf, fits_assembleWord, and_255, and_15, and_4095]
  simp (decide := true)

theorem sbl (rd : RegIdx) (rs1 : RegIdx) : Statement (.sbl rd rs1) := by
  simp only [Statement, rows_fields, List.forall_mem_cons, encode, opOf, fits_assembleWord, and_255, and_15, and_4095]
  simp (decide := true)

theorem sbp (rd : RegIdx) (rs1 : RegIdx) : Statement (.sbp rd rs1) := by
  simp only [Statement, rows_fields, List.forall_mem_cons, encode, opOf, fits_assembleWord, and_255, and_15, and_4095]
  simp (decide := true)

theorem sbox : Statement (.sbox) := by
  simp only [Statement, rows_fields, List.forall_mem_cons, encode, opOf, fits_assembleWord, and_255, and_15, and_4095]
  simp (decide := true)

theorem mds : Statement (.mds) := by
  simp only [Statement, rows_fields, List.forall_mem_cons, encode, opOf, fits_assembleWord, and_255, and_15, and_4095]
  simp (decide := true)

theorem arc (r : Fin 8) : Statement (.arc r) := by
  simp only [Statement, rows_fields, List.forall_mem_cons, encode, opOf, fits_assembleWord, and_255, and_15, and_4095, roundImm]
  simp (decide := true)

theorem round (r : Fin 8) : Statement (.round r) := by
  simp only [Statement, rows_fields, List.forall_mem_cons, encode, opOf, fits_assembleWord, and_255, and_15, and_4095, roundImm]
  simp (decide := true)

theorem perm : Statement (.perm) := by
  simp only [Statement, rows_fields, List.forall_mem_cons, encode, opOf, fits_assembleWord, and_255, and_15, and_4095]
  simp (decide := true)

end Sys2Proof.Laws.Matches
end

