-- ==== Sys2Proof/Laws/Sequencer.lean ====
section
/-!
SUPPORT. What the sequencer can do, phase by phase (R196), and how many transitions it has left: the proofs about a command in
progress cite these lemmas and do not unfold `advance`, `finish` or `drain`.
-/

namespace Sys2Proof.Machine

variable {s : State}

/-- SUB (R196). -/
theorem State.advance_of_sub (h : s.ph = .sub) :
    s.advance = { s with work := sboxLayer Config.rom s.work, ph := if s.chains then .lin else .done } := by
  simp [State.advance, h]

/-- LIN (R196). -/
theorem State.advance_of_lin (h : s.ph = .lin) :
    s.advance = { s with work := mdsMultiply Config.rom s.work, ph := if s.chains then .addrc else .done } := by
  simp [State.advance, h]

/-- ADDRC in the last round (R196). -/
theorem State.advance_of_addrc_last (h : s.ph = .addrc) (hr : s.rnd = s.last) :
    s.advance = { s with work := addRc Config.rom s.work s.rnd, ph := .done } := by
  simp [State.advance, h, hr]

/-- ADDRC before the last round (R196). -/
theorem State.advance_of_addrc_next (h : s.ph = .addrc) (hr : s.rnd ≠ s.last) :
    s.advance = { s with work := addRc Config.rom s.work s.rnd, rnd := s.rnd + 1, ph := .sub } := by
  simp [State.advance, h, hr]

/-- DONE (R196). -/
theorem State.advance_of_done (h : s.ph = .done) : s.advance = s.finish := by
  simp [State.advance, h]

/-- Before DONE a transition leaves the registers, STATUS and the command as they are (R43). -/
theorem State.advance_frame (h : s.ph ≠ .done) :
    s.advance.regs = s.regs ∧ s.advance.status = s.status ∧ s.advance.cmd = s.cmd ∧ s.advance.cmdData = s.cmdData ∧
      s.advance.rsp = s.rsp ∧ s.advance.host = s.host ∧ s.advance.freeIdx = s.freeIdx := by
  unfold State.advance
  rcases hp : s.ph with _ | _ | _ | _ | _
  · simp
  · simp
  · simp
  · by_cases hr : s.rnd = s.last <;> simp [hr]
  · exact absurd hp h

/-- Before DONE no transition changes `last` (R196). -/
theorem State.advance_last (h : s.ph ≠ .done) : s.advance.last = s.last := by
  unfold State.advance
  rcases hp : s.ph with _ | _ | _ | _ | _
  · rfl
  · rfl
  · rfl
  · by_cases hr : s.rnd = s.last <;> simp [hr]
  · exact absurd hp h

/-- The transitions the sequencer has left, at most (R196). -/
def State.transitionsLeft (s : State) : Nat :=
  match s.ph with
  | .idle => 0
  | .done => 1
  | .sub => 4 + 3 * ((s.last.val + 5 - s.rnd.val) % 5)
  | .lin => 3 + 3 * ((s.last.val + 5 - s.rnd.val) % 5)
  | .addrc => 2 + 3 * ((s.last.val + 5 - s.rnd.val) % 5)

/-- 16 transitions are always enough: `State.settle` reaches the end. -/
theorem State.transitionsLeft_le (s : State) : s.transitionsLeft ≤ 16 := by
  unfold State.transitionsLeft
  split <;> omega

/-- Before DONE a transition does not end the command. -/
theorem State.advance_ph_ne_idle (hi : s.ph ≠ .idle) (hd : s.ph ≠ .done) : s.advance.ph ≠ .idle := by
  unfold State.advance
  rcases hp : s.ph with _ | _ | _ | _ | _
  · exact absurd hp hi
  · cases hc : s.chains <;> simp
  · cases hc : s.chains <;> simp
  · by_cases hr : s.rnd = s.last <;> simp [hr]
  · exact absurd hp hd

/-- Before DONE a transition leaves the busy cycles left as they are. -/
theorem State.advance_left (hd : s.ph ≠ .done) : s.advance.left = s.left := by
  unfold State.advance
  rcases hp : s.ph with _ | _ | _ | _ | _
  · rfl
  · rfl
  · rfl
  · by_cases hr : s.rnd = s.last <;> simp [hr]
  · exact absurd hp hd

/-- Before DONE a transition is one of those left. -/
theorem State.transitionsLeft_advance (hi : s.ph ≠ .idle) (hd : s.ph ≠ .done) :
    s.advance.transitionsLeft + 1 ≤ s.transitionsLeft := by
  rcases hp : s.ph with _ | _ | _ | _ | _
  · exact absurd hp hi
  · rw [State.advance_of_sub hp]
    cases s.chains <;> simp [State.transitionsLeft, hp]
    omega
  · rw [State.advance_of_lin hp]
    cases s.chains <;> simp [State.transitionsLeft, hp]
    omega
  · by_cases hr : s.rnd = s.last
    · rw [State.advance_of_addrc_last hp hr]
      simp only [State.transitionsLeft, hp]
      omega
    · rw [State.advance_of_addrc_next hp hr]
      have hne : s.last.val ≠ s.rnd.val := fun e => hr (Fin.ext e.symm)
      have hl := s.last.isLt
      have hs := s.rnd.isLt
      have ha : (s.rnd + 1).val = (s.rnd.val + 1) % 5 := by simp [Fin.val_add]
      simp only [State.transitionsLeft, hp, ha]
      omega
  · exact absurd hp hd

/-- What going to DONE can do: the working state, RND and PH change, and nothing else (R43, R196). -/
theorem State.toDone_frame (n : Nat) (s : State) :
    s.toDone n = { s with work := (s.toDone n).work, rnd := (s.toDone n).rnd, ph := (s.toDone n).ph } := by
  induction n generalizing s with
  | zero => rfl
  | succ n ih =>
    by_cases h : s.ph = .done ∨ s.ph = .idle
    · simp [State.toDone, h]
    · have hd : s.ph ≠ .done := fun e => h (.inl e)
      obtain ⟨h1, h2, h3, h4, h5, h6, h7⟩ := State.advance_frame hd
      rw [State.toDone, if_neg h, ih s.advance, h1, h2, h3, h4, h5, h6, h7, State.advance_last hd, State.advance_left hd]

/-- A command in progress reaches DONE in the transitions it has left before the last. -/
theorem State.toDone_ph (n : Nat) (hi : s.ph ≠ .idle) (hn : s.transitionsLeft ≤ n + 1) : (s.toDone n).ph = .done := by
  induction n generalizing s with
  | zero =>
    rcases hp : s.ph with _ | _ | _ | _ | _ <;> simp [State.transitionsLeft, hp] at hn
    · exact absurd hp hi
    · omega
    · omega
    · omega
    · exact hp
  | succ n ih =>
    by_cases hd : s.ph = .done
    · simp [State.toDone, hd]
    · rw [State.toDone, if_neg (by simp [hd, hi])]
      have := State.transitionsLeft_advance hi hd
      exact ih (State.advance_ph_ne_idle hi hd) (by omega)

/-- In its last busy cycle a command is in DONE (R41). -/
theorem State.writeCycle_ph (hi : s.ph ≠ .idle) (hl : s.left = 1) : s.writeCycle.ph = .done := by
  rw [State.writeCycle, if_pos hl]
  exact State.toDone_ph 15 hi s.transitionsLeft_le

/-- Before its last busy cycle nothing happens. -/
theorem State.writeCycle_of_ne (hl : s.left ≠ 1) : s.writeCycle = s := if_neg hl

end Sys2Proof.Machine
end

