-- ==== Sys2Proof/Tests/Slice0.lean ====
section
/-!
SUPPORT. Tests on small states, expected values from spec/ (95_test_vectors.md, 30_encoding.md, 70_reset_and_hazards.md), and for every
statement with hypotheses a witness that meets them together.
-/

namespace Sys2Proof.Tests

open Sys2Proof Sys2Proof.Machine

/-! ## Helpers -/

/-- Reset, with the first registers set (the rest 0). -/
def withRegs (a b c : Word) : State := { State.reset with regs := #v[a, b, c, 0, 0, 0, 0, 0, 0, 0, 0, 0, 0, 0, 0, 0] }

/-- A register after a command. -/
def regAfter (i : Instr) (s : State) (r : RegIdx) : Word := (nextOr s (exec i s)).reg r

/-- The state after one step in which the host presents a word. -/
def afterWord (w : CmdWord) (d : Word) (s : State) : State :=
  nextOr s (step { s with host := [.command w d] })

/-- STATUS after one such step. -/
def statusAfter (w : CmdWord) (d : Word) (s : State) : Word := (afterWord w d s).status.word

/-- P - 1, the largest canonical value. -/
def pm1 : Word := 0xFFFFFFFF00000000

/-- STATUS of V-HOST-3: E_NONCANON recorded for `wrs s0`. -/
def failed : State :=
  { State.reset with status := { busy := false, err := true, ecode := 3, ecmd := 0x01000000 } }

/-! ## Well-formedness (smoke) -/

theorem test_wf_arc5_refused : (Instr.arc 5).wellFormed = false := by decide
theorem test_wf_arc4_accepted : (Instr.arc 4).wellFormed = true := by decide
theorem test_wf_round7_refused : (Instr.round 7).wellFormed = false := by decide
theorem test_wf_round5_refused : (Instr.round 5).wellFormed = false := by decide

/-! ## Decoding: each word is written field by field, OPC RD RS1 RS2 IMM (R81, R85, R92) -/

theorem test_decode_nop : decode 0b00000000_0000_0000_0000_000000000000 = .cmd .nop := by decide
theorem test_decode_wrs : decode 0b00000001_0011_0000_0000_000000000000 = .cmd (.wrs 3) := by decide
theorem test_decode_rds : decode 0b00000010_0000_1111_0000_000000000000 = .cmd (.rds 15) := by decide
theorem test_decode_rdstat : decode 0b00000011_0000_0000_0000_000000000000 = .cmd .rdstat := by decide
theorem test_decode_clrerr : decode 0b00000100_0000_0000_0000_000000000000 = .cmd .clrerr := by decide
theorem test_decode_fadd : decode 0b00010000_0010_0000_0001_000000000000 = .cmd (.fadd 2 0 1) := by decide
theorem test_decode_fmul : decode 0b00010001_1100_1010_1011_000000000000 = .cmd (.fmul 12 10 11) := by decide
theorem test_decode_limbhi : decode 0b00010010_0111_0001_0000_000000000000 = .cmd (.limbhi 7 1) := by decide
theorem test_decode_limblo : decode 0b00010011_1000_0010_0000_000000000000 = .cmd (.limblo 8 2) := by decide
theorem test_decode_fromlimbs : decode 0b00010100_0100_0001_0010_000000000000 = .cmd (.fromlimbs 4 1 2) := by decide
theorem test_decode_byte : decode 0b00010101_0101_0001_0000_000000000011 = .cmd (.byte 5 1 3) := by decide
theorem test_decode_lut : decode 0b00100000_0011_0010_0000_000000000000 = .cmd (.lut 3 2) := by decide
theorem test_decode_sbl : decode 0b00100001_0110_0101_0000_000000000000 = .cmd (.sbl 6 5) := by decide
theorem test_decode_sbp : decode 0b00100010_0110_0001_0000_000000000000 = .cmd (.sbp 6 1) := by decide
theorem test_decode_sbox : decode 0b00100011_0000_0000_0000_000000000000 = .cmd .sbox := by decide
theorem test_decode_mds : decode 0b00110000_0000_0000_0000_000000000000 = .cmd .mds := by decide
theorem test_decode_arc : decode 0b00110001_0000_0000_0000_000000000100 = .cmd (.arc 4) := by decide
theorem test_decode_round : decode 0b00110010_0000_0000_0000_000000000010 = .cmd (.round 2) := by decide
theorem test_decode_perm : decode 0b00110011_0000_0000_0000_000000000000 = .cmd .perm := by decide

/-- The illegal words of V-DEC-1 to V-DEC-8. -/
theorem test_decode_illegal_low :
    [0x00000001, 0x01101000, 0x02100000, 0x10201001, 0x15500004, 0x31000008].map decode
        = List.replicate 6 (.illegal .unusedFieldNonzero) ∧
      decode 0x05000000 = .illegal .undefinedOpcode ∧ decode 0x31000005 = .illegal .roundIndex := by decide

/-- The illegal words of V-DEC-10 to V-DEC-16. -/
theorem test_decode_illegal_high :
    [0x33000001, 0x23100000, 0x12001000, 0x03000010, 0x04100000].map decode
        = List.replicate 5 (.illegal .unusedFieldNonzero) ∧ decode 0xFF000000 = .illegal .undefinedOpcode := by decide

/-- The host's numbering: bits 31:0 are the command word, the data word stands above it. -/
theorem test_decodeTableWord : decodeTableWord 32 0x0130000A = none ∧ decodeTableWord 32 0x01300000 = some (.wrs 3) ∧
    decodeTableWord 96 0x000000000000000501300000 = some (.wrs 3) := by decide

/-- A placed WRS runs at the next step, with its data word 0 when no bits are given for it (R82). -/
theorem test_withFetchWord :
    ((nextOr State.reset (step ((withRegs 7 7 7).withFetchWord 32 0x01100000))).reg 1) = 0 ∧
      ((nextOr State.reset (step ((withRegs 7 7 7).withFetchWord 96 0x000000000000000501100000))).reg 1) = 5 := by decide

/-! ## Host and control (V-HOST) -/

theorem test_wrs_canonical : (afterWord 0x01000000 pm1 State.reset).reg 0 = pm1 := by decide
theorem test_wrs_noncanonical : statusAfter 0x01000000 0xFFFFFFFF00000001 State.reset = 0x0100000000000032 ∧
    (afterWord 0x01000000 0xFFFFFFFF00000001 State.reset).reg 0 = 0 := by decide
theorem test_rds : (afterWord 0x02020000 0 (withRegs 1 2 3)).rsp = some 3 := by decide
theorem test_rds_in_error : (afterWord 0x02000000 0 failed).rsp = some 0 := by decide
theorem test_rdstat : (afterWord 0x03000000 0 failed).rsp = some 0x0100000000000032 := by decide
theorem test_clrerr : statusAfter 0x04000000 0 failed = 0 := by decide
theorem test_nop : (afterWord 0x00000000 0 failed).status = failed.status := by decide
/-- V-ERR-1, and V-DEC-16: an illegal word does not clear. -/
theorem test_dropped_in_error : statusAfter 0x01100000 5 failed = 0x0100000000000032 ∧
    (afterWord 0x01100000 5 failed).reg 1 = 0 ∧ statusAfter 0x04100000 0 failed = 0x0100000000000032 := by decide
/-- V-DEC-1, V-DEC-4 (no response), V-DEC-13. -/
theorem test_illegal_status : statusAfter 0x00000001 0 State.reset = 0x0000000100000012 ∧
    (afterWord 0x02100000 0 State.reset).rsp = none ∧ statusAfter 0xFF000000 0 State.reset = 0xFF00000000000012 := by
  decide

/-! ## Field arithmetic (V-FADD, V-FMUL, V-LIMB, V-BYTE) -/

theorem test_fadd_wraps_to_zero : regAfter (.fadd 2 0 1) (withRegs pm1 1 7) 2 = 0 := by decide
theorem test_fadd_source_is_destination : regAfter (.fadd 0 0 0) (withRegs pm1 0 0) 0 = 0xFFFFFFFEFFFFFFFF := by decide
theorem test_fmul_generic : regAfter (.fmul 2 0 1) (withRegs 0x002BDC545D6B4B87 0x015EE2A320FF453F 0) 2
    = 0x6741D65EF46E98F3 := by decide
theorem test_fmul_minus_one : regAfter (.fmul 0 0 0) (withRegs pm1 0 0) 0 = 1 := by decide
theorem test_limbhi : regAfter (.limbhi 1 0) (withRegs 0x0102030405060708 0 0) 1 = 0x01020304 := by decide
theorem test_limblo : regAfter (.limblo 1 0) (withRegs 0x0102030405060708 0 0) 1 = 0x05060708 := by decide
theorem test_fromlimbs_high_first : regAfter (.fromlimbs 2 0 1) (withRegs 0x01020304 0x05060708 0) 2
    = 0x0102030405060708 := by decide
/-- V-LIMB-8, V-LIMB-9 (E_RANGE before E_NONCANON), V-LIMB-10. -/
theorem test_fromlimbs_errors : statusAfter 0x14201000 0 (withRegs 0xFFFFFFFF 1 0) = 0x1420100000000032 ∧
    statusAfter 0x14201000 0 (withRegs 0x100000000 0 0) = 0x1420100000000022 ∧
    statusAfter 0x14201000 0 (withRegs 5 0x100000000 0) = 0x1420100000000022 := by decide
theorem test_byte : [0, 1, 2, 3].map (fun k => regAfter (.byte 1 0 k) (withRegs 0x05060708 0 0) 1)
    = [0x08, 0x07, 0x06, 0x05] := by decide
theorem test_byte_range : statusAfter 0x15100000 0 (withRegs 0x100000000 0 0) = 0x1510000000000022 := by decide

/-! ## Lookup and S-boxes: the fixture T of 95_test_vectors.md (not the hardware's constants) -/

/-- The candidate table (93_implementation_defined.md I1). -/
def candidate (x : Byte) : Byte := BitVec.ofNat 8 ((x.toNat + 1) ^ 3 % 257 - 1)

/-- Its inverse: 3 * 171 = 513 = 2 * 256 + 1. -/
def candidateInv (x : Byte) : Byte := BitVec.ofNat 8 ((x.toNat + 1) ^ 171 % 257 - 1)

theorem candidate_left : ∀ x : Byte, candidateInv (candidate x) = x := by decide
theorem candidate_right : ∀ x : Byte, candidate (candidateInv x) = x := by decide

/-- The test instantiation T. -/
def romT : Rom :=
  { lut := ⟨candidate, candidateInv, candidate_left, candidate_right⟩
    mdsCoeff := fun k => ⟨k.val + 1, by have := k.isLt; show _ < 0xFFFFFFFF00000001; omega⟩
    rcFlat := fun n => ⟨n.val + 1, by have := n.isLt; show _ < 0xFFFFFFFF00000001; omega⟩ }

/-- The input [1..10] padded with 0. -/
def oneToTen : Elems := #v[1, 2, 3, 4, 5, 6, 7, 8, 9, 10, 0, 0, 0, 0, 0, 0]

/-- V-LUT-1 to V-LUT-3 and the derivation of V-SBL-5. -/
theorem test_lookup : [0, 1, 3, 4, 7, 8, 255].map (lookup romT) = [0, 7, 63, 124, 254, 214, 255] := by decide
/-- V-LUT-4, V-ERR-2. -/
theorem test_lut_range : statusAfter 0x20320000 0 (withRegs 0 0 0x100000000) = 0x2032000000000022 ∧
    statusAfter 0x20100000 0 (withRegs 256 0 0) = 0x2010000000000022 := by decide
theorem test_sbl : lookupSbox romT 0x0102030405060708 = 0x00003F7C0000FED6 := by decide
theorem test_sbl_drops_upper_bytes : lookupSbox romT 0xABCD000000001234 = 0x000000000000B049 := by decide
theorem test_sbp : regAfter (.sbp 1 0) (withRegs 0x0102030405060708 0 0) 1 = 0xDF1BA039805150E0 := by decide
theorem test_sbp_minus_two : regAfter (.sbp 0 0) (withRegs 0xFFFFFFFEFFFFFFFF 0 0) 0 = 0xFFFFFFFEFFFFFF81 := by decide
/-- V-SBOX-4: the column "after SBOX". -/
theorem test_sbox : sboxLayer romT oneToTen
    = #v[0x7, 0x1A, 0x3F, 0x7C, 0x1312D, 0x44580, 0xC90F7, 0x200000, 0x48FB79, 0x989680, 0, 0, 0, 0, 0, 0] := by decide
/-- V-SBOX-3: the split. -/
theorem test_sbox_split : (sboxLayer romT #v[2, 0, 0, 0, 2, 0, 0, 0, 0, 0, 0, 0, 0, 0, 0, 0])
    = #v[26, 0, 0, 0, 128, 0, 0, 0, 0, 0, 0, 0, 0, 0, 0, 0] := by decide

/-! ## Linear layer, rounds, permutation (V-MDS, V-ARC, V-RND, V-PERM) -/

set_option maxRecDepth 100000

/-- V-MDS-6. -/
theorem test_mds_basis : mdsMultiply romT #v[0, 0, 0, 0, 0, 1, 0, 0, 0, 0, 0, 0, 0, 0, 0, 0]
    = #v[6, 5, 4, 3, 2, 1, 16, 15, 14, 13, 12, 11, 10, 9, 8, 7] := by decide
/-- V-MDS-8. -/
theorem test_mds_minus_one : (mdsMultiply romT #v[0xFFFFFFFF00000000, 0, 0, 0, 0, 0, 0, 0, 0, 0, 0, 0, 0, 0, 0, 0])[1]
    = 0xFFFFFFFEFFFFFFF1 := by decide
/-- V-ARC-2. -/
theorem test_arc : addRc romT (Vector.replicate 16 0) 4
    = #v[65, 66, 67, 68, 69, 70, 71, 72, 73, 74, 75, 76, 77, 78, 79, 80] := by decide
theorem test_arc_bad_index : statusAfter 0x31000005 0 State.reset = 0x3100000500000012 ∧
    regAfter (.arc 5) State.reset 0 = 0 := by decide
/-- V-RND-1, positions 0 and 15. -/
theorem test_round : (roundFn romT oneToTen 0)[0] = 0x09FE48CC ∧ (roundFn romT oneToTen 0)[15] = 0x0B11E354 := by decide
theorem test_round_bad_index : statusAfter 0x32000007 0 State.reset = 0x3200000700000012 := by decide
/-- V-PERM-2. -/
theorem test_perm : permute romT oneToTen =
    #v[0xE4AB43DDE12A2428, 0x1E597A69C940AB71, 0x580E6E64B15CE4DB, 0x91C2637F997464C5, 0xCB78BBFA8186784F,
       0x318A0DEF8F89A6CF, 0x0BC410846CA1D92C, 0xB979AFC223DA654C, 0x67B6C5E45D83C2FC, 0xC64A4F28EBDC92C4,
       0x976F9AC86A29EBFD, 0xCDEC2630E95B0574, 0xEA05B8F149983849, 0x11EE0B0A39CCA56C, 0xE9ADE4B14AA0C89D,
       0x357663FDB75D3C95] := by decide

/-! ## Assembly (R90, R94) -/

theorem test_asm_wrs : (AsmLine.wrs 3 5).hostAct = some (.command 0x01300000 5) := by decide
theorem test_asm_byte : (AsmLine.byte 5 0 3).hostAct = some (.command 0x15500003 0) := by decide
theorem test_asm_refuses : (AsmLine.rds 16).assemble = none ∧ (AsmLine.arc 5).assemble = none ∧
    (AsmLine.wrs 0 0x10000000000000000).assemble = none ∧
    (AsmLine.wrs 0 0xFFFFFFFF00000001).assemble = some (.wrs 0, 0xFFFFFFFF00000001) := by decide
theorem test_asm_text : (AsmLine.fromlimbs 4 1 2).text = "fromlimbs s4, s1, s2" := by decide
theorem test_pseudo : (Pseudo.roundSteps 4).expand = [.sbox, .mds, .arc 4] ∧ (Pseudo.fsq 3 0).expand = [.fmul 3 0 0] := by
  decide

/-! ## The clock level (R265, R266, R267, R270) -/

/-- The host presents a word at an edge. -/
def present (w : CmdWord) : Pins := { rst := false, cmdValid := true, cmd := w, cmdData := 0 }

/-- The host presents nothing at an edge. -/
def quiet : Pins := { rst := false, cmdValid := false, cmd := 0, cmdData := 0 }

/-- The reference latency of FMUL is 3 (R270): `busy` is 1 for two cycles and the product is written at the end of the second. -/
theorem test_clock_fmul : let s1 := clock referenceTiming (present 0x11201000) (withRegs 3 5 0)
    let s2 := clock referenceTiming quiet s1
    let s3 := clock referenceTiming quiet s2
    [s1, s2, s3].map busyOut = [true, true, false] ∧ [s1, s2, s3].map (cmdReady quiet) = [false, false, true] ∧
      [s1, s2, s3].map (fun s => s.reg 2) = [0, 0, 15] := by decide

/-- PERM starts in SUB of round 0 with `last` = 4 and V = S; a reset edge abandons it (R196, R262). -/
theorem test_clock_perm_reset : let s1 := clock referenceTiming (present 0x33000000) (withRegs 3 5 0)
    let s2 := clock referenceTiming { quiet with rst := true } s1
    (s1.ph, s1.rnd, s1.last, s1.left) = (.sub, 0, 4, 154) ∧ s1.work = (withRegs 3 5 0).regs ∧
      (s2.ph, s2.status.busy) = (.idle, false) ∧ s2.reg 0 = 0 := by decide

/-! ## Witnesses: for every statement with hypotheses, a state and operands that meet them together -/

/-- An idle state with some registers set and nothing from the host is good. -/
theorem ok_withRegs (a b c : Word) (ha : canon a) (hb : canon b) (hc : canon c) : (withRegs a b c).Ok where
  regs := by
    intro i
    have h0 : canon (0 : Word) := by decide
    fin_cases i <;> first | exact ha | exact hb | exact hc | exact h0
  work := (by decide : CanonVec State.reset.work)
  status := by
    constructor
    · exact fun _ => ⟨rfl, rfl⟩
    · exact fun h => absurd h (by decide : ¬ (false = true))
  busy := rfl
  started := fun h => absurd h (by decide : ¬ (true = false))
  left := fun _ => rfl

/-- The good idle state the witnesses use. -/
def idleOk : State := withRegs pm1 1 2

theorem ok_idleOk : idleOk.Ok := ok_withRegs _ _ _ (by decide) (by decide) (by decide)

/-- A good state with a PERM in progress. -/
def busyOk : State := (idleOk.accept 0x33000000 0).start .perm 154

theorem ok_busyOk : busyOk.Ok where
  regs := ok_idleOk.regs
  work := ok_idleOk.regs
  status := ok_idleOk.status
  busy := rfl
  started := fun _ => ⟨.perm, by decide, rfl⟩
  left := fun h => absurd h (by decide)

/-- Latencies of two cycles each. -/
def twoCycles : Timing := { referenceTiming with lat := fun _ => 2 }

/-- A good state in which a LUT that failed its operand check is in progress. -/
def busyFailed : State := clock twoCycles (present 0x20100000) (withRegs 256 0 0)

theorem ok_busyFailed : busyFailed.Ok where
  regs := (ok_withRegs 256 0 0 (by decide) (by decide) (by decide)).regs
  work := (ok_withRegs 256 0 0 (by decide) (by decide) (by decide)).work
  status := by decide
  busy := by decide
  started := fun _ => ⟨.lut 1 0, by decide⟩
  left := fun h => absurd h (by decide)

/-- A good state with a recorded error. -/
theorem ok_failed : failed.Ok where
  regs := by decide
  work := by decide
  status := by decide
  busy := rfl
  started := fun h => absurd h (by decide : ¬ (true = false))
  left := fun _ => rfl

/-- The state with these actions of the host. -/
def State.withHost (s : State) (l : List HostAct) : State := { s with host := l }

/-- DecodeOfEncodeIsIdentity, at the boundary of the round index. -/
theorem witness_DecodeOfEncodeIsIdentity : (Instr.round 4).wellFormed = true := by decide

theorem witness_EncodeOfDecodeIsIdentity : decode 0x15FF0003 = .cmd (.byte 15 15 3) := by decide

/-- Both clauses, at the boundaries of the byte index, the round index and the opcode map. -/
theorem witness_EveryWordIsOneCommandOrIllegal :
    [0x15FF0003, 0x32000004, 0x33000000, 0x10FFF000].map legalWord = [true, true, true, true] ∧
      [0x15FF0004, 0x32000005, 0x34000000, 0x10FFF001].map legalWord = [false, false, false, false] := by decide

theorem witness_AtMostOneRowFitsAWord : (Row.mk .arc 0x31000000 0xFFFFFFF8) ∈ rows ∧
    (Row.mk .arc 0x31000000 0xFFFFFFF8).fits 0x31000007 = true := by decide

/-- Both clauses, at the boundaries of every kind of operand. -/
theorem witness_AssemblerRefusesOutOfRangeOperands :
    [AsmLine.byte 15 15 3, .round 4, .wrs 15 0xFFFFFFFFFFFFFFFF].map AsmLine.inRange = [true, true, true] ∧
      [AsmLine.byte 16 15 3, .byte 15 15 4, .round 5, .wrs 15 0x10000000000000000].map AsmLine.inRange
        = [false, false, false, false] := by decide

/-- R94: `fromlimbs s4, s1, s2` is 0x14412000 and `wrs s3, 5` is 0x01300000 with the data word 5; high limb first. -/
theorem test_asm_fields :
    [AsmLine.fromlimbs 4 1 2, .wrs 3 5].map AsmLine.fields = [⟨0x14, 4, 1, 2, 0, 0⟩, ⟨0x01, 3, 0, 0, 0, 5⟩] ∧
      (AsmLine.fromlimbs 4 1 2).hostAct = some (.command 0x14412000 0) := by decide

/-- From an idle unit and from one with a command in progress. -/
theorem witness_StepRunsTheDecodedCommand : decode 0x02000000 = .cmd (.rds 0) ∧
    (State.withHost idleOk [.command 0x02000000 0]).host = .command 0x02000000 0 :: [] ∧
    (State.withHost busyOk [.command 0x02000000 0]).host = .command 0x02000000 0 :: [] ∧
    (State.withHost idleOk [.command 0x02000000 0]).isIdle = true := by decide

theorem witness_PlacedCommandRunsNext : idleOk.isIdle = true ∧ decode 0x02000000 = .cmd (.rds 0) := by decide

theorem witness_StepKeepsTheUnitGood : idleOk.Ok ∧ idleOk.clockRuns ∧ step idleOk = .next idleOk.endCycle :=
  ⟨ok_idleOk, by decide, rfl⟩

theorem witness_ResetSetsEveryPieceAndAbandonsTheCommand :
    ({ quiet with rst := true } : Pins).rst = true ∧ quiet.rst = false ∧
      (State.withHost busyOk [.reset]).host = .reset :: [] := by decide

theorem witness_IdleUnitHoldsItsState : idleOk.isIdle = true ∧ idleOk.host = [] ∧
    (State.withHost idleOk [.idle]).host = .idle :: [] := by decide

theorem witness_ClockStopKeepsStateOfARetainingUnit : (State.withHost idleOk [.stopClock]).host = .stopClock :: [] := by
  decide

/-- The hypotheses of EveryWordRaisesItsListedError, and every clause of its table at the boundary values. -/
theorem witness_EveryWordRaisesItsListedError :
    (let s := State.withHost idleOk [.command 0x20000000 0];
      s.isIdle = true ∧ s.status.err = false ∧ s.host = .command 0x20000000 0 :: []) ∧
    [causeCode idleOk 0x00000000 0, causeCode idleOk 0x00000001 0, causeCode idleOk 0x34000000 0,
      causeCode idleOk 0x31000004 0, causeCode idleOk 0x31000005 0] = [0, 1, 1, 0, 1] ∧
    [causeCode (withRegs 255 0 0) 0x20000000 0, causeCode (withRegs 256 0 0) 0x20000000 0] = [0, 2] ∧
    [causeCode (withRegs 0xFFFFFFFF 0 0) 0x15000000 0, causeCode (withRegs 0x100000000 0 0) 0x15000000 0] = [0, 2] ∧
    [causeCode (withRegs 0xFFFFFFFF 0 0) 0x14001000 0, causeCode (withRegs 0xFFFFFFFF 1 0) 0x14001000 0,
      causeCode (withRegs 0x100000000 1 0) 0x14001000 0, causeCode (withRegs 1 0x100000000 0) 0x14001000 0] = [0, 3, 2, 2] ∧
    [causeCode idleOk 0x01000000 pm1, causeCode idleOk 0x01000000 0xFFFFFFFF00000001] = [0, 3] := by decide

theorem witness_ErrorIsPreciseAndNamesTheCommand :
    (withRegs 256 0 0).status.err = false ∧
      exec (.lut 1 0) (withRegs 256 0 0) = .next ((withRegs 256 0 0).withError 2 0x20100000) ∧
      ((withRegs 256 0 0).withError 2 0x20100000).status.err = true := ⟨rfl, rfl, rfl⟩

theorem witness_OnlyFourCommandsRunWhileErrorIsSet : let s := State.withHost failed [.command 0x04000000 0]
    s.isIdle = true ∧ s.status.err = true ∧ s.host = .command 0x04000000 0 :: [] := by decide

theorem witness_CommandsAreDroppedWhileErrorIsSet : runsInError .perm = false ∧ failed.status.err = true := by decide

/-- An idle unit, and one with a command in progress that failed its operand check. -/
theorem witness_RecordedErrorStaysUntilCleared : (busyFailed.Ok ∧ busyFailed.status.err = true ∧ busyFailed.host = []) ∧
    failed.Ok ∧ failed.status.err = true ∧
    step failed = .next failed.endCycle ∧ failed.host.head? ≠ some .reset ∧ failed.clockRuns ∧
    ∀ (w : CmdWord) (d : Word) (rest : List HostAct), failed.host = .command w d :: rest → decode w ≠ .cmd .clrerr :=
  ⟨⟨ok_busyFailed, by decide, by decide⟩, ok_failed, by decide, rfl, by decide, by decide, fun _ _ _ h => absurd h (by simp [failed, State.reset])⟩

theorem witness_StatusIsWrittenOnlyByErrorAndClear : exec .nop idleOk = .next idleOk ∧ Instr.nop ≠ .clrerr :=
  ⟨rfl, by decide⟩

theorem witness_NopAndClearErrorAlwaysExecute : failed.isIdle = true ∧
    (State.withHost failed [.command 0x00000000 0]).host = .command 0x00000000 0 :: [] ∧
    (State.withHost failed [.command 0x04000000 0]).host = .command 0x04000000 0 :: [] := by decide

/-- Both clauses of WRS, at P - 1 and at P. -/
theorem witness_WrsStoresCanonicalDataOnly :
    (idleOk.accept 0x01000000 pm1).status.err = false ∧ (idleOk.accept 0x01000000 pm1).cmdData.toNat < P ∧
      (idleOk.accept 0x01000000 0xFFFFFFFF00000001).status.err = false ∧
      ¬ (idleOk.accept 0x01000000 0xFFFFFFFF00000001).cmdData.toNat < P := by decide

theorem witness_RdsRespondsWithTheRegister : idleOk.Ok := ok_idleOk

theorem witness_RdstatRespondsWithTheStatusLayout : idleOk.Ok ∧ idleOk.isIdle = true := ⟨ok_idleOk, by decide⟩

/-- FADD: a sum of exactly P, and one of P - 1. -/
theorem witness_FaddAddsModuloP : idleOk.status.err = false ∧ (idleOk.reg 0).toNat < P ∧ (idleOk.reg 1).toNat < P ∧
    (idleOk.reg 0).toNat + (idleOk.reg 1).toNat = P ∧ (idleOk.reg 0).toNat + (idleOk.reg 3).toNat = P - 1 := by decide

/-- The one hypothesis of the statements FmulMultipliesModuloP, LimbCommandsWriteTheHalves, SblRecombinesSubstitutedBytes,
SbpRaisesToTheSeventhPower, SboxSplitsThePositions, MdsMultipliesByTheCirculant and PermIsTheFiveRoundsInOrder. -/
theorem witness_noErrorRecorded : idleOk.status.err = false := by decide

/-- FROMLIMBS: the three clauses, at the boundaries. -/
theorem witness_FromlimbsComposesOrRaises :
    (withRegs 0x100000000 1 0).status.err = false ∧ 2 ^ 32 ≤ ((withRegs 0x100000000 1 0).reg 0).toNat ∧
      (¬ 2 ^ 32 ≤ ((withRegs 0xFFFFFFFF 1 0).reg 0).toNat ∧
        P ≤ ((withRegs 0xFFFFFFFF 1 0).reg 0).toNat * 2 ^ 32 + ((withRegs 0xFFFFFFFF 1 0).reg 1).toNat) ∧
      ¬ P ≤ ((withRegs 0xFFFFFFFF 0 0).reg 0).toNat * 2 ^ 32 + ((withRegs 0xFFFFFFFF 0 0).reg 1).toNat := by decide

/-- BYTE: both clauses, at the boundary. -/
theorem witness_ByteExtractsOrRaises : (withRegs 0x100000000 0xFFFFFFFF 0).status.err = false ∧
    2 ^ 32 ≤ ((withRegs 0x100000000 0xFFFFFFFF 0).reg 0).toNat ∧
    ¬ 2 ^ 32 ≤ ((withRegs 0x100000000 0xFFFFFFFF 0).reg 1).toNat := by decide

theorem witness_LimbsComposeBackToTheElement : idleOk.status.err = false ∧ (idleOk.reg 0).toNat < P ∧
    (1 : RegIdx) ≠ 0 ∧ (2 : RegIdx) ≠ 1 := by decide

/-- LUT: both clauses, at the boundary. -/
theorem witness_LutSubstitutesAByteOrRaises : (withRegs 255 256 0).status.err = false ∧
    256 ≤ ((withRegs 255 256 0).reg 1).toNat ∧ ¬ 256 ≤ ((withRegs 255 256 0).reg 0).toNat := by decide

/-- Two elements that agree in bits 15:0 and 47:32 and differ in bits 16 and 48. -/
theorem witness_LookupSboxDropsTheUpperBytes :
    (0x0001000000010000 : Word).toNat % 2 ^ 16 = (0 : Word).toNat % 2 ^ 16 ∧
      (0x0001000000010000 : Word).toNat / 2 ^ 32 % 2 ^ 16 = (0 : Word).toNat / 2 ^ 32 % 2 ^ 16 := by decide

theorem witness_PowerMapIsABijectionOnTheField : pm1.toNat < P ∧ fpow7 pm1 = pm1 := by decide

/-- Under T, [1..10] and the same with another element at position 5; no coefficient of T is zero. -/
theorem witness_MdsDiffusesOneDifferenceToAllPositions : CanonVec oneToTen ∧ CanonVec (oneToTen.set 5 pm1) ∧
    oneToTen[(5 : RegIdx)] ≠ (oneToTen.set 5 pm1)[(5 : RegIdx)] ∧
    (∀ m : RegIdx, m ≠ 5 → oneToTen[m] = (oneToTen.set 5 pm1)[m]) ∧ ∀ k : Fin 16, (romT.mdsCoeff k).val ≠ 0 := by decide

/-- Both clauses of ARC, at r = 4 and r = 5; the same for ROUND. -/
theorem witness_ArcAddsTheRoundConstants : idleOk.status.err = false ∧ (4 : Fin 8).val ≤ 4 ∧ ¬ (5 : Fin 8).val ≤ 4 := by
  decide

theorem witness_RoundIsSboxThenMdsThenArc : idleOk.status.err = false ∧ (4 : Fin 8).val ≤ 4 ∧ ¬ (5 : Fin 8).val ≤ 4 := by
  decide

/-- V-PERM-3: bit 16 of position 0. -/
theorem witness_PermuteIgnoresTheDroppedBits : let W := oneToTen.set 0 0x10001
    oneToTen ≠ W ∧
    (∀ i : RegIdx, i.val < 4 → oneToTen[i].toNat % 2 ^ 16 = W[i].toNat % 2 ^ 16 ∧
      oneToTen[i].toNat / 2 ^ 32 % 2 ^ 16 = W[i].toNat / 2 ^ 32 % 2 ^ 16) ∧
    ∀ i : RegIdx, 4 ≤ i.val → oneToTen[i] = W[i] := by decide

/-- ADDRC in a round before the last and in the last one, SUB and LIN of a PERM, and the boundary round 4. -/
theorem witness_RoundCounterSelectsItsConstants :
    (let s := { busyOk with ph := .addrc, rnd := 3 };
      s.ph = .addrc ∧ s.rnd.val < s.last.val) ∧
    (let s := { busyOk with ph := .addrc, rnd := 4 };
      s.ph = .addrc ∧ s.rnd = s.last) ∧
    busyOk.ph = .sub ∧ ({ busyOk with ph := .lin } : State).ph = .lin ∧ decode busyOk.cmd = .cmd .perm ∧
    (4 : Fin 8).val ≤ 4 := by decide

/-- A command that names its destination, and one that responds not. -/
theorem witness_CommandsWriteOnlyWhatTheyName :
    exec (.limbhi 3 0) idleOk = .next (idleOk.setReg 3 0xFFFFFFFF) ∧ writesReg (.limbhi 3 0) 2 = false ∧
      wholeState (.limbhi 3 0) = false ∧ Instr.limbhi 3 0 ≠ .rdstat ∧ ∀ r : RegIdx, Instr.limbhi 3 0 ≠ .rds r :=
  ⟨rfl, by decide, by decide, by decide, by decide⟩

theorem witness_OnlyReadsRespond : (State.withHost idleOk [.command 0x03000000 0]).clockRuns ∧
    decode 0x03000000 = .cmd .rdstat := by decide

theorem witness_DataWordIsReadByWrsAlone : ∀ rd : RegIdx, Instr.perm ≠ .wrs rd := by decide

/-- Two states that agree in what counts and differ in the response and the sampled word. -/
theorem witness_ResultsDependOnRegistersAndErrorAlone : let u := { idleOk with rsp := some 7, cmd := 0x33000000, rnd := 4 }
    idleOk ≠ u ∧ idleOk.regs = u.regs ∧ idleOk.status.err = u.status.err ∧ idleOk.cmdData = u.cmdData := by decide

/-- FMUL at the reference latency of 3 has two busy cycles and NOP none; an FMUL that is dropped has none (R235); a LUT of latency 2 on
256 has one. -/
theorem witness_ClockLevelRunEqualsTheMeaning : idleOk.Ok ∧ idleOk.isIdle = true ∧
    decode 0x11201000 = .cmd (.fmul 2 0 1) ∧ (∀ p ∈ [quiet, quiet], p.rst = false) ∧
    [quiet, quiet].length = (if idleOk.status.err = true then 0 else latency referenceTiming (.fmul 2 0 1) - 1) ∧
    (decode 0x00000000 = .cmd .nop ∧
      ([] : List Pins).length = (if idleOk.status.err = true then 0 else latency referenceTiming .nop - 1)) ∧
    (failed.Ok ∧ failed.isIdle = true ∧
      ([] : List Pins).length = (if failed.status.err = true then 0 else latency referenceTiming (.fmul 2 0 1) - 1)) ∧
    (let s := withRegs 256 0 0;
      s.Ok ∧ s.isIdle = true ∧ decode 0x20100000 = .cmd (.lut 1 0) ∧
        [quiet].length = (if s.status.err = true then 0 else latency twoCycles (.lut 1 0) - 1)) :=
  ⟨ok_idleOk, by decide, by decide, by decide, by decide, by decide, ⟨ok_failed, by decide, by decide⟩,
    ok_withRegs 256 0 0 (by decide) (by decide) (by decide), by decide, by decide, by decide⟩

theorem witness_ClockKeepsTheUnitGood : idleOk.Ok := ok_idleOk

/-- A PERM in progress, and a LUT in progress with the error of its operand. -/
theorem witness_StartedCommandCannotFail : busyOk.Ok ∧ busyOk.isIdle = false ∧ quiet.rst = false ∧
    decode busyOk.cmd = .cmd .perm ∧ multiCycle .perm = true ∧
    busyFailed.Ok ∧ busyFailed.isIdle = false ∧ busyFailed.status.err = true :=
  ⟨ok_busyOk, by decide, by decide, by decide, by decide, ok_busyFailed, by decide, by decide⟩

/-- While a command is in progress, while `cmd_valid` = 0, and while `rst` = 1 with a command presented to an idle unit. -/
theorem witness_PortIsSampledOnlyAtTheAcceptingEdge :
    (quiet.rst = (present 0x01000000).rst ∧ busyOk.isIdle = false) ∧
      (let q := { quiet with cmd := 0x01000000 };
        quiet.rst = q.rst ∧ quiet.cmdValid = false ∧ q.cmdValid = false) ∧
      let p := { present 0x01000000 with rst := true }
      let q := { quiet with rst := true }
      p.rst = q.rst ∧ p.rst = true ∧ p.cmdValid = true ∧ idleOk.isIdle = true := by decide

theorem witness_ResponseLastsOneCycle : idleOk.isIdle = true ∧ decode 0x02000000 = .cmd (.rds 0) ∧
    quiet.rst = false ∧ quiet.cmdValid = false := by decide

/-- The host's list for the largest inputs. -/
theorem witness_HostSequenceComputesThePermutation : let x : Vector Nat 16 := Vector.replicate 16 (P - 1)
    let s := State.withHost idleOk ((hostActs (Pseudo.expand (.permute x))).getD [])
    s.isIdle = true ∧ s.status.err = false ∧ (∀ i : Fin 16, x[i] < P) ∧
      hostActs (Pseudo.expand (.permute x)) = some s.host := by decide

/-- A word past the opcode map and a round index past its range, from an idle unit without an error and from one with. -/
theorem witness_AcceptedIllegalWordIsRecordedOrDropped : idleOk.isIdle = true ∧ idleOk.status.err = false ∧
    failed.isIdle = true ∧ failed.status.err = true ∧ [0x34000000, 0x32000005].map legalWord = [false, false] ∧
    quiet.rst = false := by decide

/-- V-DEC-13 at the level of the clock: STATUS after the accepting edge, with and without an error before. -/
theorem test_clock_illegal : (clock referenceTiming (present 0xFF000000) idleOk).status.word = 0xFF00000000000012 ∧
    (clock referenceTiming (present 0xFF000000) failed).status.word = 0x0100000000000032 := by decide

/-- A LUT of latency 2 on 256 records its error at its accepting edge, holds `cmd_ready` = 0 for one cycle all the same, and writes no
register; while ERR = 1 it is dropped with latency 1 (R232, R235, R266, R271). -/
theorem test_clock_failed_lut : let s1 := clock twoCycles (present 0x20100000) (withRegs 256 7 0)
    let s2 := clock twoCycles quiet s1
    [s1, s2].map busyOut = [true, false] ∧ [s1, s2].map (cmdReady quiet) = [false, true] ∧
      [s1, s2].map (fun s => (s.reg 1, s.status.ecode, s.status.ecmd)) = [(7, 2, 0x20100000), (7, 2, 0x20100000)] ∧
      cmdReady quiet (clock twoCycles (present 0x20100000) s2) = true := by decide

/-- A timing under which each phase lasts as short as it can: MDS takes 3 cycles, ROUND 5. -/
def fastPhases : Timing := { lat := fun p => if p = .round then 5 else 3, pace := fun _ _ => true }

/-- PH of ROUND 4 is SUB, LIN, ADDRC and DONE, one busy cycle each, and that of MDS LIN and DONE (R41, R196). -/
theorem test_clock_phases : let s1 := clock fastPhases (present 0x32000004) idleOk
    let s2 := clock fastPhases quiet s1
    let s3 := clock fastPhases quiet s2
    let s4 := clock fastPhases quiet s3
    let m1 := clock fastPhases (present 0x30000000) idleOk
    [s1, s2, s3, s4, clock fastPhases quiet s4].map State.ph = [.sub, .lin, .addrc, .done, .idle] ∧
      [m1, clock fastPhases quiet m1].map State.ph = [.lin, .done] := by decide

/-- The reference design: ROUND has 10 busy cycles in SUB, 18 in LIN, 1 in ADDRC and 1 in DONE; the second round of PERM begins with 125
busy cycles left, and has 12, 18 and 1 (R270; log 16). -/
theorem test_reference_pace : (List.range 31).filter (referencePace 0x32000000) = [3, 21] ∧
    (List.range 155).filter (referencePace 0x33000000) = [2, 3, 21, 33, 34, 52, 64, 65, 83, 95, 96, 114, 126, 127, 145] := by
  decide

/-- ROUND with four busy cycles, and MDS with one before DONE. -/
theorem witness_DoneIsTheCycleInWhichTheResultIsWritten : idleOk.Ok ∧ idleOk.isIdle = true ∧ idleOk.status.err = false ∧
    decode 0x32000004 = .cmd (.round 4) ∧ (∀ p ∈ [quiet, quiet, quiet, quiet], p.rst = false) ∧
    [quiet, quiet, quiet, quiet].length = latency fastPhases (.round 4) - 1 ∧ wholeState (.round 4) = true ∧
    decode 0x30000000 = .cmd .mds ∧ [quiet, quiet].length = latency fastPhases .mds - 1 :=
  ⟨ok_idleOk, by decide, by decide, by decide, by decide, by decide, by decide, by decide, by decide⟩

end Sys2Proof.Tests
end

section
/-!
PROOFS of the family 10_state.md, part 1: what a command can do. One inversion lemma, `exec_effect`, says it for all 19 commands;
frames, STATUS and the response are read off its six cases.
-/

namespace Sys2Proof.Machine

/-! ## What a legal word decodes to -/

/-- A row's word is a well-formed command or is refused (R87, R89). -/
theorem build_wellFormed {op : Op} {w : CmdWord} {i : Instr} (h : build op w = .cmd i) : i.wellFormed = true := by
  cases op with
  | arc | round =>
    simp only [build] at h
    split at h
    · cases h
    · cases h
      exact decide_eq_true (by omega)
  | _ => cases h; rfl

/-- The decoder answers with well-formed commands only (R87). -/
theorem decode_wellFormed {w : CmdWord} {i : Instr} (h : decode w = .cmd i) : i.wellFormed = true := by
  unfold decode at h
  split at h
  · exact build_wellFormed h
  · cases h

/-! ## What a command can do -/

/-- What the meaning of the command `i` can make of the state `s`: nothing, a recorded error, one register written, all registers
written by the sequencer, a response, or a cleared error. -/
inductive Effect (i : Instr) (s : State) : State → Prop
  | skip (h : i = .nop ∨ runsInError i = false ∧ s.status.err = true) : Effect i s s
  | error (e : ErrCause) (h : s.status.err = false) (hc : operandCheck i s = some e) :
      Effect i s (s.withError e.code (encode i))
  | write (rd : RegIdx) (v : Word) (h : s.status.err = false) (hc : operandCheck i s = none)
      (hw : writesReg i rd = true) (hs : wholeState i = false) (hv : canon v) : Effect i s (s.setReg rd v)
  | layers (r l : Fin 5) (V : Elems) (h : s.status.err = false) (hc : operandCheck i s = none)
      (hs : wholeState i = true) (hV : CanonVec V) : Effect i s ((s.schedule r l).commit V)
  | respond (v : Word) (h : i = .rdstat ∨ ∃ r, i = .rds r) : Effect i s (s.respond v)
  | clear (h : i = .clrerr) : Effect i s s.clearError

variable {i : Instr} {s t : State}

/-- The common form of the commands of R235: dropped while ERR = 1, else checked, else carried out. -/
theorem effect_of_checked {s' : State} (hr : runsInError i = false)
    (h : s.status.err = false → operandCheck i s = none → Effect i s s') :
    ∃ t, s.unlessError (s.checked (operandCheck i s) (encode i) s') = .next t ∧ Effect i s t := by
  cases he : s.status.err with
  | true => exact ⟨s, State.unlessError_of_set he, .skip (.inr ⟨hr, he⟩)⟩
  | false =>
    rw [State.unlessError_of_clear he]
    cases hc : operandCheck i s with
    | none => exact ⟨s', rfl, h he hc⟩
    | some e => exact ⟨_, by rw [State.checked_some, State.raise_of_clear he], .error e he hc⟩

/-- A zero-extended value of at most 32 bits is canonical. -/
theorem canon_setWidth {n : Nat} (hn : n ≤ 32) (x : BitVec n) : canon (x.setWidth 64) := by
  apply canon_of_lt
  have h1 := x.isLt
  have h2 : 2 ^ n ≤ 2 ^ 32 := Nat.pow_le_pow_right (by decide) hn
  rw [BitVec.toNat_setWidth]
  exact Nat.lt_of_le_of_lt (Nat.mod_le _ _) (by omega)

theorem canon_of_wrsCheck {v : Word} (h : wrsCheck v = none) : canon v := by
  simpa [wrsCheck] using h

theorem canon_of_fromlimbsCheck {h l : Word} (hc : fromlimbsCheck h l = none) :
    canon (fromLimbs (h.setWidth 32) (l.setWidth 32)) := by
  unfold fromlimbsCheck at hc
  split at hc
  · cases hc
  · split at hc
    · cases hc
    · rw [canon, fromLimbs_toNat, BitVec.toNat_setWidth, BitVec.toNat_setWidth]
      omega

/-- The round index of ARC and ROUND is a round, or their operand check fails (R87, R191). -/
theorem roundIndex?_cases (r : Fin 8) : roundIndex? r = some (Fin.ofNat 5 r.val) ∧ roundCheck r = none ∨
    roundIndex? r = none ∧ roundCheck r = some .illegal := by
  by_cases h : r.val ≤ 4
  · have hk : Fin.ofNat 5 r.val = ⟨r.val, by omega⟩ := Fin.ext (Nat.mod_eq_of_lt (by omega))
    exact .inl ⟨hk ▸ roundIndex?_of_le h, if_neg (by omega)⟩
  · exact .inr ⟨roundIndex?_of_gt (by omega), if_pos (by omega)⟩

/-- ARC as an operand check before its effect (R191). -/
theorem execArc_eq (r : Fin 8) (s : State) : execArc r s =
    s.unlessError (s.checked (roundCheck r) (encode (.arc r))
      ((s.schedule (Fin.ofNat 5 r.val) (Fin.ofNat 5 r.val)).commit (addRc Config.rom s.regs (Fin.ofNat 5 r.val)))) := by
  rcases roundIndex?_cases r with ⟨hk, hc⟩ | ⟨hk, hc⟩ <;> rw [execArc, hk, hc] <;> rfl

/-- ROUND as an operand check before its effect (R193). -/
theorem execRound_eq (r : Fin 8) (s : State) : execRound r s =
    s.unlessError (s.checked (roundCheck r) (encode (.round r))
      ((s.schedule (Fin.ofNat 5 r.val) (Fin.ofNat 5 r.val)).commit (roundFn Config.rom s.regs (Fin.ofNat 5 r.val)))) := by
  rcases roundIndex?_cases r with ⟨hk, hc⟩ | ⟨hk, hc⟩ <;> rw [execRound, hk, hc] <;> rfl

/-- A command of R235 that writes one register. -/
theorem effect_write (i : Instr) (rd : RegIdx) (v : Word) (hr : runsInError i = false)
    (hw : writesReg i rd = (rd == rd)) (hs : wholeState i = false) (hv : operandCheck i s = none → canon v) :
    ∃ t, s.unlessError (s.checked (operandCheck i s) (encode i) (s.setReg rd v)) = .next t ∧ Effect i s t :=
  effect_of_checked hr fun he hc => .write rd v he hc (hw.trans (beq_self_eq_true rd)) hs (hv hc)

/-- A command of R235 that writes all registers. -/
theorem effect_layers (i : Instr) (r l : Fin 5) (V : Elems) (hr : runsInError i = false) (hs : wholeState i = true)
    (hV : CanonVec V) :
    ∃ t, s.unlessError (s.checked (operandCheck i s) (encode i) ((s.schedule r l).commit V)) = .next t ∧
      Effect i s t :=
  effect_of_checked hr fun he hc => .layers r l V he hc hs hV

/-- Every command gives a next state, and one of the six effects (R36). -/
theorem exec_effect (i : Instr) (s : State) : ∃ t, exec i s = .next t ∧ Effect i s t := by
  cases i with
  | nop => exact ⟨s, rfl, .skip (.inl rfl)⟩
  | rds r => exact ⟨_, rfl, .respond _ (.inr ⟨r, rfl⟩)⟩
  | rdstat => exact ⟨_, rfl, .respond _ (.inl rfl)⟩
  | clrerr => exact ⟨_, rfl, .clear rfl⟩
  | wrs rd => exact effect_write (.wrs rd) rd _ rfl rfl rfl canon_of_wrsCheck
  | fadd rd a b => exact effect_write (.fadd rd a b) rd _ rfl rfl rfl fun _ => canon_fadd _ _
  | fmul rd a b => exact effect_write (.fmul rd a b) rd _ rfl rfl rfl fun _ => canon_fmul _ _
  | limbhi rd a => exact effect_write (.limbhi rd a) rd _ rfl rfl rfl fun _ => canon_setWidth (by decide) _
  | limblo rd a => exact effect_write (.limblo rd a) rd _ rfl rfl rfl fun _ => canon_setWidth (by decide) _
  | fromlimbs rd a b => exact effect_write (.fromlimbs rd a b) rd _ rfl rfl rfl canon_of_fromlimbsCheck
  | byte rd a k => exact effect_write (.byte rd a k) rd _ rfl rfl rfl fun _ => canon_setWidth (by decide) _
  | lut rd a => exact effect_write (.lut rd a) rd _ rfl rfl rfl fun _ => canon_setWidth (by decide) _
  | sbl rd a => exact effect_write (.sbl rd a) rd _ rfl rfl rfl fun _ => canon_lookupSbox _ _
  | sbp rd a => exact effect_write (.sbp rd a) rd _ rfl rfl rfl fun _ => canon_fpow7 _
  | sbox => exact effect_layers .sbox s.rnd s.last _ rfl rfl (canonVec_sboxLayer _ _)
  | mds => exact effect_layers .mds s.rnd s.last _ rfl rfl (canonVec_mdsMultiply _ _)
  | arc r =>
    rw [show exec (.arc r) s = execArc r s from rfl, execArc_eq]
    exact effect_layers (.arc r) _ _ _ rfl rfl (canonVec_addRc _ _ _)
  | round r =>
    rw [show exec (.round r) s = execRound r s from rfl, execRound_eq]
    exact effect_layers (.round r) _ _ _ rfl rfl (canonVec_addRc _ _ _)
  | perm => exact effect_layers .perm 4 4 _ rfl rfl (canonVec_addRc _ _ _)

/-- A next state of a command is one of the six effects. -/
theorem effect_of_exec (h : exec i s = .next t) : Effect i s t := by
  obtain ⟨u, hu, he⟩ := exec_effect i s
  rw [h] at hu
  injection hu with hu
  rwa [hu]

theorem exec_eq_nextOr (i : Instr) (s : State) : exec i s = .next (nextOr s (exec i s)) := by
  obtain ⟨t, ht, -⟩ := exec_effect i s
  rw [ht, nextOr]

/-- An operand check that fails is of a single-register command that is dropped while ERR = 1 (R231, R235). -/
theorem of_operandCheck_isSome (hw : i.wellFormed = true) (hc : (operandCheck i s).isSome = true) :
    wholeState i = false ∧ runsInError i = false := by
  have legalRound {r : Fin 8} (hr : decide (r.val ≤ 4) = true) : roundCheck r = none := by
    rw [roundCheck, if_neg (by simpa using hr)]
  cases i with
  | wrs | lut | byte | fromlimbs => exact ⟨rfl, rfl⟩
  | arc r | round r => simp [operandCheck, legalRound hw] at hc
  | _ => simp [operandCheck] at hc

/-! ### What every effect has in common -/

/-- Only registers, STATUS, the response and V, RND and `last` can change (R23, R33, R35). -/
theorem Effect.frame (h : Effect i s t) :
    t = { s with regs := t.regs, work := t.work, rnd := t.rnd, last := t.last, status := t.status, rsp := t.rsp } := by
  cases h <;> rfl

/-- A register that the command does not name keeps its value (R23). -/
theorem Effect.reg_of_not_written (h : Effect i s t) {j : RegIdx} (hj : writesReg i j = false) : t.reg j = s.reg j := by
  cases h with
  | write rd v _ _ hw =>
    apply State.reg_setReg_of_ne
    rintro rfl
    simp [hw] at hj
  | layers r l V _ _ hs => cases i <;> simp [wholeState, writesReg] at hs hj
  | _ => rfl

/-- A command on single registers leaves the sequencer alone (R196). -/
theorem Effect.sequencer (h : Effect i s t) (hw : wholeState i = false) :
    t.work = s.work ∧ t.rnd = s.rnd ∧ t.last = s.last := by
  cases h with
  | layers r l V _ _ hs => simp [hw] at hs
  | _ => exact ⟨rfl, rfl, rfl⟩

/-- Only RDS and RDSTAT touch the response port (R35). -/
theorem Effect.rsp (h : Effect i s t) (hi : ¬ (i = .rdstat ∨ ∃ r, i = .rds r)) : t.rsp = s.rsp := by
  cases h with
  | respond v h => exact absurd h hi
  | _ => rfl

theorem ErrCause.code_mem (e : ErrCause) : e.code = 1 ∨ e.code = 2 ∨ e.code = 3 := by
  cases e <;> decide

/-- STATUS is written on the error path and by CLRERR only (R33). -/
theorem Effect.status (h : Effect i s t) (hi : i ≠ .clrerr) :
    t.status = s.status ∨
      (s.status.err = false ∧ t.status.err = true ∧ t.status.busy = s.status.busy ∧
        (t.status.ecode = 1 ∨ t.status.ecode = 2 ∨ t.status.ecode = 3)) := by
  cases h with
  | error e he hc => exact .inr ⟨he, rfl, rfl, e.code_mem⟩
  | clear h => exact absurd h hi
  | _ => exact .inl rfl

/-- A recorded error outlasts every command but CLRERR (R237). -/
theorem Effect.status_of_err (h : Effect i s t) (he : s.status.err = true) (hi : i ≠ .clrerr) : t.status = s.status := by
  rcases h.status hi with h | ⟨h, -⟩
  · exact h
  · simp [he] at h

/-- While ERR = 1 a command other than the four of R235 does nothing. -/
theorem Effect.eq_of_dropped (h : Effect i s t) (he : s.status.err = true) (hr : runsInError i = false) : t = s := by
  cases h with
  | skip => rfl
  | error e h | write _ _ h | layers _ _ _ h => simp [he] at h
  | respond v h => rcases h with rfl | ⟨r, rfl⟩ <;> simp [runsInError] at hr
  | clear h => simp [h, runsInError] at hr

/-- With ERR = 0 a command leaves the STATUS of its operand check (R238). -/
theorem Effect.status_eq_check (h : Effect i s t) (he : s.status.err = false) (hi : i ≠ .clrerr) :
    t.status = (s.checkOperands i).status := by
  have passed (hc : operandCheck i s = none) : (s.checkOperands i).status = s.status := by
    rw [State.checkOperands_eq he, hc]
  cases h with
  | skip h =>
    rcases h with rfl | ⟨-, h⟩
    · exact (passed rfl).symm
    · simp [he] at h
  | error e _ hc => rw [State.checkOperands_eq he, hc]
  | write _ _ _ hc | layers _ _ _ _ hc => exact (passed hc).symm
  | respond v h => rcases h with rfl | ⟨r, rfl⟩ <;> exact (passed rfl).symm
  | clear h => exact absurd h hi

/-- A command whose operand check fails does what the check does, and no more (R232, R238). -/
theorem Effect.eq_check_of_fails (h : Effect i s t) (he : s.status.err = false) (hc : (operandCheck i s).isSome = true) :
    t = s.checkOperands i := by
  cases h with
  | skip h =>
    rcases h with rfl | ⟨-, h⟩
    · simp [operandCheck] at hc
    · simp [he] at h
  | error e _ hc => rw [State.checkOperands_eq he, hc]
  | write _ _ _ h | layers _ _ _ _ h => simp [h] at hc
  | respond v h => rcases h with rfl | ⟨r, rfl⟩ <;> simp [operandCheck] at hc
  | clear h => simp [h, operandCheck] at hc

end Sys2Proof.Machine
end

section
/-!
PROOFS of the family 10_state.md, part 2: the invariant, and that leaving DONE and every transition of the sequencer keep it.
-/

namespace Sys2Proof.Machine

variable {i : Instr} {s t : State}

/-! ## The invariant -/

theorem ErrCause.legal (e : ErrCause) (b : Bool) (w : CmdWord) :
    Status.Legal { busy := b, err := true, ecode := e.code, ecmd := w } :=
  ⟨nofun, fun _ => e.code_mem⟩

/-- The operand check reads registers and the data word only. -/
theorem operandCheck_congr (hr : s.regs = t.regs) (hd : s.cmdData = t.cmdData) (i : Instr) :
    operandCheck i s = operandCheck i t := by
  cases i <;> simp only [operandCheck, State.reg, hr, hd]

/-- An idle state is good by its registers and STATUS alone. -/
theorem State.Ok.of_idle (hr : CanonVec s.regs) (hw : CanonVec s.work) (hs : s.status.Legal)
    (hb : s.status.busy = false) (hi : s.ph = .idle) (hl : s.left = 0) : s.Ok where
  regs := hr
  work := hw
  status := hs
  busy := by simp [hb, State.isIdle, hi]
  started h := by simp [State.isIdle, hi] at h
  left _ := hl

/-- The invariant does not see the response, the host and the free index, nor the cycles left of a command in progress. -/
theorem State.Ok.of_eq (h : s.Ok) (hr : t.regs = s.regs) (hw : CanonVec t.work) (hs : t.status = s.status)
    (hi : t.isIdle = s.isIdle) (hc : t.cmd = s.cmd) (hd : t.cmdData = s.cmdData) (hl : t.isIdle = true → t.left = 0) :
    t.Ok where
  regs := hr ▸ h.regs
  work := hw
  status := hs ▸ h.status
  busy := by rw [hs, hi, h.busy]
  started ht := by
    obtain ⟨i, h1, h2⟩ := h.started (hi ▸ ht)
    exact ⟨i, hc ▸ h1, by rw [hs, h2, operandCheck_congr hr hd]⟩
  left := hl

theorem State.Ok.endCycle (h : s.Ok) : s.endCycle.Ok := h.of_eq rfl h.work rfl rfl rfl rfl h.left

theorem State.Ok.busy_of_idle (h : s.Ok) (hi : s.ph = .idle) : s.status.busy = false := by
  rw [h.busy, s.isIdle_iff.mpr hi]
  rfl

/-- Sampling a command word on an idle unit keeps the invariant. -/
theorem State.Ok.accept (h : s.Ok) (hi : s.ph = .idle) (w : CmdWord) (d : Word) : (s.accept w d).Ok :=
  .of_idle h.regs h.work h.status (h.busy_of_idle hi) hi (h.left (s.isIdle_iff.mpr hi))

theorem canonVec_zero : CanonVec (Vector.replicate 16 0) := by decide

theorem State.Ok.resetEdge (s : State) : s.resetEdge.Ok :=
  .of_idle canonVec_zero canonVec_zero ⟨fun _ => ⟨rfl, rfl⟩, nofun⟩ rfl rfl rfl

/-- A command carried out on an idle unit keeps the invariant (R21, R32, R233). -/
theorem Effect.ok (h : Effect i s t) (hs : s.Ok) (hi : s.ph = .idle) : t.Ok := by
  have hb := hs.busy_of_idle hi
  have hl := hs.left (s.isIdle_iff.mpr hi)
  cases h with
  | skip => exact hs
  | error e => exact .of_idle hs.regs hs.work (e.legal _ _) hb hi hl
  | write rd v _ _ _ _ hv => exact .of_idle (canonVec_set hs.regs rd hv) hs.work hs.status hb hi hl
  | layers r l V _ _ _ hV => exact .of_idle hV hV hs.status hb hi hl
  | respond v => exact .of_idle hs.regs hs.work hs.status hb hi hl
  | clear => exact .of_idle hs.regs hs.work ⟨fun _ => ⟨rfl, rfl⟩, nofun⟩ hb hi hl

/-- So does an illegal word (R87). -/
theorem State.Ok.illegalCommand (hs : s.Ok) (hi : s.ph = .idle) (w : CmdWord) : (s.illegalCommand w).Ok := by
  unfold State.illegalCommand
  cases he : s.status.err with
  | true => rwa [State.raise_of_set he]
  | false =>
    rw [State.raise_of_clear he]
    exact .of_idle hs.regs hs.work (ErrCause.legal _ _ _) (hs.busy_of_idle hi) hi (hs.left (s.isIdle_iff.mpr hi))

/-! ## Leaving DONE -/

/-- The state in which a command's result is written: BUSY is 0, PH is IDLE and no cycles are left (R28, R196). -/
def State.closed (s : State) : State := { s with status := s.status.setBusy false, ph := .idle, left := 0 }

/-- A whole-state command leaves DONE with V in all registers (R196). -/
theorem State.finish_of_wholeState (hd : decode s.cmd = .cmd i) (hw : wholeState i = true) :
    s.finish = (s.commit s.work).closed := by
  simp [State.finish, hd, hw, State.closed, State.commit]

/-- A command on single registers is carried out when it leaves DONE (R266). -/
theorem State.exec_closed (hd : decode s.cmd = .cmd i) (hw : wholeState i = false) :
    exec i s.closed = .next s.finish := by
  rw [exec_eq_nextOr i s.closed]
  simp [State.finish, hd, hw, State.closed]

/-- A word that is no command has no result. -/
theorem State.finish_of_illegal {why : Illegal} (hd : decode s.cmd = .illegal why) : s.finish = s.closed := by
  simp [State.finish, hd, State.closed]

/-- What leaving DONE can do (R196). -/
theorem State.finish_cases (s : State) :
    (∃ i, decode s.cmd = .cmd i ∧ wholeState i = true ∧ s.finish = (s.commit s.work).closed) ∨
    (∃ i, decode s.cmd = .cmd i ∧ wholeState i = false ∧ Effect i s.closed s.finish) ∨ s.finish = s.closed := by
  cases hd : decode s.cmd with
  | illegal why => exact .inr (.inr (State.finish_of_illegal hd))
  | cmd i =>
    cases hw : wholeState i with
    | true => exact .inl ⟨i, rfl, hw, State.finish_of_wholeState hd hw⟩
    | false => exact .inr (.inl ⟨i, rfl, hw, effect_of_exec (State.exec_closed hd hw)⟩)

/-- Leaving DONE ends the command and keeps its words, the host's actions and the free index. -/
theorem State.finish_frame (s : State) : s.finish = { s.closed with
    regs := s.finish.regs, work := s.finish.work, rnd := s.finish.rnd, last := s.finish.last,
    status := s.finish.status, rsp := s.finish.rsp } := by
  rcases s.finish_cases with ⟨i, -, -, h⟩ | ⟨i, -, -, h⟩ | h
  · rw [h]
    rfl
  · exact h.frame
  · rw [h]

theorem State.finish_ph (s : State) : s.finish.ph = .idle := by rw [s.finish_frame]; rfl

theorem State.Ok.closed (h : s.Ok) : s.closed.Ok := .of_idle h.regs h.work h.status rfl rfl rfl

theorem State.Ok.finish (h : s.Ok) : s.finish.Ok := by
  rcases s.finish_cases with ⟨i, -, -, hf⟩ | ⟨i, -, -, hf⟩ | hf
  · rw [hf]
    exact .of_idle h.work h.work h.status rfl rfl rfl
  · exact hf.ok h.closed rfl
  · rw [hf]
    exact h.closed

/-! ## The transitions of the sequencer -/

/-- The layers leave canonical elements in V (R21). -/
theorem State.advance_work (h : CanonVec s.work) (hd : s.ph ≠ .done) : CanonVec s.advance.work := by
  rcases hp : s.ph with _ | _ | _ | _ | _
  · simpa [State.advance, hp] using h
  · rw [State.advance_of_sub hp]
    exact canonVec_sboxLayer _ _
  · rw [State.advance_of_lin hp]
    exact canonVec_mdsMultiply _ _
  · by_cases hr : s.rnd = s.last
    · rw [State.advance_of_addrc_last hp hr]
      exact canonVec_addRc _ _ _
    · rw [State.advance_of_addrc_next hp hr]
      exact canonVec_addRc _ _ _
  · exact absurd hp hd

theorem State.isIdle_eq_false_iff : s.isIdle = false ↔ s.ph ≠ .idle := by
  rw [← Bool.not_eq_true, s.isIdle_iff]

/-- A transition keeps the invariant. -/
theorem State.Ok.advance (h : s.Ok) (hi : s.ph ≠ .idle) : s.advance.Ok := by
  by_cases hd : s.ph = .done
  · rw [State.advance_of_done hd]
    exact h.finish
  · obtain ⟨hr, hs, hc, hcd, -, -, -⟩ := State.advance_frame hd
    have ha := State.isIdle_eq_false_iff.mpr (State.advance_ph_ne_idle hi hd)
    exact h.of_eq hr (State.advance_work h.work hd) hs (ha.trans (State.isIdle_eq_false_iff.mpr hi).symm) hc hcd
      fun h => by simp [ha] at h

/-- What the transitions of a command in progress keep holds when the sequencer has carried it on. -/
theorem State.drain_induction {p : State → Prop} (hp : ∀ s, p s → s.ph ≠ .idle → p s.advance) (n : Nat) (h : p s) :
    p (s.drain n) := by
  induction n generalizing s with
  | zero => exact h
  | succ n ih =>
    by_cases hi : s.ph = .idle
    · rwa [State.drain_of_idle _ hi]
    · rw [State.drain_succ_of_busy _ hi]
      exact ih (hp s h hi)

/-- The same on the way to DONE, whose own transition is not made. -/
theorem State.toDone_induction {p : State → Prop}
    (hp : ∀ s, p s → s.ph ≠ .idle → s.ph ≠ .done → p s.advance) (n : Nat) (h : p s) : p (s.toDone n) := by
  induction n generalizing s with
  | zero => exact h
  | succ n ih =>
    rw [State.toDone]
    split
    · exact h
    · next hne =>
      rw [not_or] at hne
      exact ih (hp s h hne.2 hne.1)

theorem State.writeCycle_induction {p : State → Prop}
    (hp : ∀ s, p s → s.ph ≠ .idle → s.ph ≠ .done → p s.advance) (h : p s) : p s.writeCycle := by
  unfold State.writeCycle
  split
  · exact State.toDone_induction hp 15 h
  · exact h

/-- A transition to another phase of a layer, or none (R41). -/
theorem State.advanceWithin_cases (s : State) : s.advanceWithin = s ∨
    s.advanceWithin = s.advance ∧ s.ph ≠ .idle ∧ s.ph ≠ .done ∧ s.advance.ph ≠ .done := by
  unfold State.advanceWithin
  by_cases h : s.advance.ph = .done ∨ s.advance.ph = .idle
  · exact .inl (if_pos h)
  · rw [not_or] at h
    refine .inr ⟨if_neg (not_or.mpr h), fun hi => h.2 ?_, fun hd => h.2 ?_, h.1⟩
    · rw [State.advance, hi]
      exact hi
    · rw [State.advance_of_done hd, State.finish_ph]

/-- In the transitions it has left the sequencer reaches IDLE. -/
theorem State.drain_ph {n : Nat} (h : s.transitionsLeft ≤ n) : (s.drain n).ph = .idle := by
  induction n generalizing s with
  | zero => rcases hp : s.ph with _ | _ | _ | _ | _ <;> simp [State.transitionsLeft, hp, State.drain] at h ⊢
  | succ n ih =>
    by_cases hi : s.ph = .idle
    · rwa [State.drain_of_idle _ hi]
    rw [State.drain_succ_of_busy _ hi]
    by_cases hd : s.ph = .done
    · rw [State.advance_of_done hd, State.drain_of_idle _ s.finish_ph, State.finish_ph]
    · exact ih (by have := State.transitionsLeft_advance hi hd; omega)

/-- A command in progress is carried to its end (R266). -/
theorem State.settle_ph (s : State) : s.settle.ph = .idle := State.drain_ph s.transitionsLeft_le

theorem State.Ok.settle (h : s.Ok) : s.settle.Ok := State.drain_induction (fun _ h hi => h.advance hi) 16 h

theorem State.Ok.writeCycle (h : s.Ok) : s.writeCycle.Ok := State.writeCycle_induction (fun _ h hi _ => h.advance hi) h

theorem State.Ok.advanceWithin (h : s.Ok) : s.advanceWithin.Ok := by
  rcases s.advanceWithin_cases with e | ⟨e, hi, -, -⟩ <;> rw [e]
  · exact h
  · exact h.advance hi

end Sys2Proof.Machine
end

section
/-!
PROOFS of the family 10_state.md, part 3: what a step and a clock edge can do, and that both keep the invariant.
-/

namespace Sys2Proof.Machine

variable {i : Instr} {s t : State}

/-! ## The step -/

/-- What one step can do: with nothing from the host, or a cycle left idle, the command in progress ends and the response is over; a
reset; a stop of the clock; a command or an illegal word, after the command in progress has ended. -/
inductive StepEffect (s : State) : State → Prop
  | hold (h : s.host = []) : StepEffect s s.settle.endCycle
  | idle (rest : List HostAct) (h : s.host = .idle :: rest) : StepEffect s { s.settle.endCycle with host := rest }
  | reset (rest : List HostAct) (h : s.host = .reset :: rest) : StepEffect s { s.resetEdge with host := rest }
  | stop (rest : List HostAct) (h : s.host = .stopClock :: rest) : StepEffect s { s.clockStopped with host := rest }
  | command (w : CmdWord) (d : Word) (rest : List HostAct) (i : Instr) {t : State} (h : s.host = .command w d :: rest)
      (hd : decode w = .cmd i) (he : Effect i (s.settle.accepted w d rest) t) : StepEffect s t
  | illegal (w : CmdWord) (d : Word) (rest : List HostAct) (why : Illegal) (h : s.host = .command w d :: rest)
      (hd : decode w = .illegal why) : StepEffect s ((s.settle.accepted w d rest).illegalCommand w)

/-- A presented word that decodes to a command is that command's meaning in the accepted state (R73, R265). -/
theorem step_of_command {w : CmdWord} {d : Word} {rest : List HostAct} (h : s.host = .command w d :: rest)
    (hd : decode w = .cmd i) : step s = exec i (s.settle.accepted w d rest) := by
  rw [step, h]
  simp only [State.runWord, hd]
  rfl

/-- The step function is total (R36), and a step is one of these. -/
theorem step_effect (s : State) : ∃ t, step s = .next t ∧ StepEffect s t := by
  rcases hh : s.host with _ | ⟨_ | _ | _ | _, rest⟩
  case nil => exact ⟨_, by rw [step, hh], .hold hh⟩
  case cons.idle => exact ⟨_, by rw [step, hh], .idle rest hh⟩
  case cons.reset => exact ⟨_, by rw [step, hh], .reset rest hh⟩
  case cons.stopClock => exact ⟨_, by rw [step, hh], .stop rest hh⟩
  case cons.command w d =>
    cases hd : decode w with
    | cmd i =>
      obtain ⟨t, ht, he⟩ := exec_effect i (s.settle.accepted w d rest)
      exact ⟨t, by rw [step_of_command hh hd, ht], .command w d rest i hh hd he⟩
    | illegal why =>
      refine ⟨_, ?_, .illegal w d rest why hh hd⟩
      rw [step, hh]
      simp only [State.runWord, hd]
      rfl

theorem stepEffect_of_step (h : step s = .next t) : StepEffect s t := by
  obtain ⟨u, hu, he⟩ := step_effect s
  rw [h] at hu
  injection hu with hu
  rwa [hu]

theorem State.Ok.withHost (h : s.Ok) (l : List HostAct) : State.Ok { s with host := l } :=
  h.of_eq rfl h.work rfl rfl rfl rfl h.left

theorem State.Ok.accepted (h : s.Ok) (hi : s.ph = .idle) (w : CmdWord) (d : Word) (rest : List HostAct) :
    (s.accepted w d rest).Ok :=
  (h.accept hi w d).withHost rest

/-- A unit that retains its state keeps the invariant over a stop of the clock (R246). -/
theorem State.Ok.clockStopped (h : s.Ok) (hr : Config.clockStopRetains = true) : s.clockStopped.Ok := by
  rw [State.clockStopped, if_pos hr]
  exact h.of_eq rfl h.work rfl rfl rfl rfl h.left

/-- Settles O10: each kind of step takes a good state to a good state. -/
theorem stepKeepsTheUnitGood : Obligations.StepKeepsTheUnitGood := by
  unfold Obligations.StepKeepsTheUnitGood
  intro s t hs hclock ht
  cases stepEffect_of_step ht with
  | hold => exact hs.settle.endCycle
  | idle rest => exact hs.settle.endCycle.withHost rest
  | reset rest => exact (State.Ok.resetEdge s).withHost rest
  | stop rest h =>
    rcases hclock with hc | hr
    · exact absurd (by rw [h]; rfl) hc
    · exact (hs.clockStopped hr).withHost rest
  | command w d rest i _ _ he => exact he.ok (hs.settle.accepted s.settle_ph w d rest) s.settle_ph
  | illegal w d rest => exact (hs.settle.accepted s.settle_ph w d rest).illegalCommand s.settle_ph w

/-! ## The accepting edge -/

/-- What starting a well-formed command does: a command on single registers waits in DONE, a whole-state command loads V and goes to
the phase of its first layer (R196). -/
theorem State.start_cases (hw : i.wellFormed = true) (s : State) (n : Nat) :
    (wholeState i = false ∧ s.start i n = s.enter .done n) ∨
    (wholeState i = true ∧ ∃ ph r l, ph ≠ .idle ∧ ph ≠ .done ∧
      s.start i n = ((s.schedule r l).loadWork).enter ph n) := by
  cases i with
  | sbox => exact .inr ⟨rfl, .sub, s.rnd, s.last, nofun, nofun, rfl⟩
  | mds => exact .inr ⟨rfl, .lin, s.rnd, s.last, nofun, nofun, rfl⟩
  | arc r =>
    have hr : r.val ≤ 4 := of_decide_eq_true hw
    exact .inr ⟨rfl, .addrc, ⟨r.val, by omega⟩, ⟨r.val, by omega⟩, nofun, nofun,
      by simp only [State.start, roundIndex?_of_le hr]⟩
  | round r =>
    have hr : r.val ≤ 4 := of_decide_eq_true hw
    exact .inr ⟨rfl, .sub, ⟨r.val, by omega⟩, ⟨r.val, by omega⟩, nofun, nofun,
      by simp only [State.start, roundIndex?_of_le hr]⟩
  | perm => exact .inr ⟨rfl, .sub, 0, 4, nofun, nofun, rfl⟩
  | _ => exact .inl ⟨rfl, rfl⟩

theorem State.start_ph_ne_idle (hw : i.wellFormed = true) (s : State) (n : Nat) : (s.start i n).ph ≠ .idle := by
  rcases State.start_cases hw s n with ⟨-, h⟩ | ⟨-, ph, r, l, hi, -, h⟩ <;> rw [h]
  · exact nofun
  · exact hi

/-- Starting a command changes PH, RND, `last`, V, BUSY and the cycles left only (R28, R196). -/
theorem State.start_frame (hw : i.wellFormed = true) (s : State) (n : Nat) :
    s.start i n = { s.enter (s.start i n).ph n with
      rnd := (s.start i n).rnd, last := (s.start i n).last, work := (s.start i n).work } := by
  rcases State.start_cases hw s n with ⟨-, h⟩ | ⟨-, ph, r, l, -, -, h⟩ <;> rw [h] <;> rfl

/-- A command started with the outcome of its operand check in ERR keeps the invariant (R238). -/
theorem State.Ok.start (h : s.Ok) (hd : decode s.cmd = .cmd i) (he : s.status.err = (operandCheck i s).isSome) (n : Nat) :
    (s.start i n).Ok := by
  have hw := decode_wellFormed hd
  have hi := State.isIdle_eq_false_iff.mpr (State.start_ph_ne_idle hw s n)
  have hf := State.start_frame hw s n
  have hV : CanonVec (s.start i n).work := by
    rcases State.start_cases hw s n with ⟨-, e⟩ | ⟨-, ph, r, l, -, -, e⟩ <;> rw [e]
    · exact h.work
    · exact h.regs
  have hc : (s.start i n).status.err = (operandCheck i (s.start i n)).isSome := by
    rw [operandCheck_congr (t := s) (by rw [hf]; rfl) (by rw [hf]; rfl) i, ← he, hf]
    rfl
  exact {
    regs := by rw [hf]; exact h.regs
    work := hV
    status := by rw [hf]; exact h.status
    busy := by rw [hi, hf]; rfl
    started := fun _ => ⟨i, by rw [hf]; exact hd, hc⟩
    left := fun hn => by simp [hi] at hn }

theorem State.Ok.checkOperands (h : s.Ok) (hi : s.ph = .idle) (he : s.status.err = false) (i : Instr) :
    (s.checkOperands i).Ok := by
  rw [State.checkOperands_eq he]
  cases hc : operandCheck i s with
  | none => exact h
  | some e => exact (Effect.error (i := i) e he hc).ok h hi

theorem staysBusy_iff {tm : Timing} : staysBusy tm i s = true ↔ 1 < latency tm i ∧ s.status.err = false := by
  simp [staysBusy]

/-- A legal command that stays busy is checked and started (R238, R266). -/
theorem State.acceptEdge_of_staysBusy {tm : Timing} {w : CmdWord} {d : Word} (hd : decode w = .cmd i)
    (hb : staysBusy tm i (s.accept w d) = true) : s.acceptEdge tm w d =
      ((((s.accept w d).checkOperands i).start i (latency tm i - 1))).writeCycle := by
  simp only [State.acceptEdge, hd, hb, if_true]

/-- A legal command of one cycle is carried out at its accepting edge (R266). -/
theorem State.exec_acceptEdge {tm : Timing} {w : CmdWord} {d : Word} (hd : decode w = .cmd i)
    (hb : ¬ staysBusy tm i (s.accept w d) = true) : exec i (s.accept w d) = .next (s.acceptEdge tm w d) := by
  rw [exec_eq_nextOr]
  simp only [State.acceptEdge, hd, hb, if_false, Bool.false_eq_true]

/-- An illegal word ends at its accepting edge (log 15). -/
theorem State.acceptEdge_of_illegal {tm : Timing} {w : CmdWord} {d : Word} {why : Illegal} (hd : decode w = .illegal why) :
    s.acceptEdge tm w d = (s.accept w d).illegalCommand w := by
  simp only [State.acceptEdge, hd]

theorem State.checkOperands_cmd (s : State) (i : Instr) : (s.checkOperands i).cmd = s.cmd := by
  rw [s.checkOperands_frame]

theorem State.operandCheck_checkOperands (s : State) (i : Instr) : operandCheck i (s.checkOperands i) = operandCheck i s :=
  operandCheck_congr (by rw [s.checkOperands_frame]) (by rw [s.checkOperands_frame]) i

/-- A command that is checked and started: registers, response and free index are as before, STATUS is that of the check (R238). -/
theorem State.start_checkOperands (hw : i.wellFormed = true) (s : State) (n : Nat) :
    ((s.checkOperands i).start i n).regs = s.regs ∧ ((s.checkOperands i).start i n).rsp = s.rsp ∧
      ((s.checkOperands i).start i n).freeIdx = s.freeIdx ∧ ((s.checkOperands i).start i n).left = n ∧
      ((s.checkOperands i).start i n).status = (s.checkOperands i).status.setBusy true := by
  rw [State.start_frame hw]
  have h := s.checkOperands_frame i
  exact ⟨(congrArg State.regs h :), (congrArg State.rsp h :), (congrArg State.freeIdx h :), rfl, rfl⟩

theorem State.Ok.acceptEdge (h : s.Ok) (hi : s.ph = .idle) (tm : Timing) (w : CmdWord) (d : Word) :
    (s.acceptEdge tm w d).Ok := by
  have ha := h.accept hi w d
  cases hd : decode w with
  | illegal why =>
    rw [State.acceptEdge_of_illegal hd]
    exact ha.illegalCommand hi w
  | cmd i =>
    by_cases hb : staysBusy tm i (s.accept w d) = true
    · rw [State.acceptEdge_of_staysBusy hd hb]
      have he := (staysBusy_iff.mp hb).2
      refine ((ha.checkOperands hi he i).start ?_ ?_ _).writeCycle
      · rwa [State.checkOperands_cmd]
      · rw [State.checkOperands_err he, State.operandCheck_checkOperands]
    · exact (effect_of_exec (State.exec_acceptEdge hd hb)).ok ha hi

/-! ## An edge while a command is in progress -/

/-- The state in which `n` busy cycles are left. -/
def State.withLeft (s : State) (n : Nat) : State := { s with left := n }

/-- At the end of the last busy cycle the command ends (R266). -/
theorem State.busyEdge_of_last (tm : Timing) (hl : s.left ≤ 1) : s.busyEdge tm = s.endCycle.settle := if_pos hl

/-- Before that a cycle passes, with a transition to another layer or without (R196). -/
theorem State.busyEdge_cases (tm : Timing) (hl : 1 < s.left) :
    s.busyEdge tm = (s.endCycle.withLeft (s.left - 1)).writeCycle ∨
    s.busyEdge tm = (s.endCycle.advanceWithin.withLeft (s.left - 1)).writeCycle := by
  rw [State.busyEdge, if_neg (Nat.not_le.mpr hl)]
  cases tm.pace s.cmd s.left with
  | true => exact .inr rfl
  | false => exact .inl rfl

theorem State.Ok.withLeft (h : s.Ok) (hi : s.ph ≠ .idle) (n : Nat) : (s.withLeft n).Ok :=
  h.of_eq rfl h.work rfl rfl rfl rfl fun hn => absurd (s.isIdle_iff.mp hn) hi

theorem State.advanceWithin_ph_ne_idle (hi : s.ph ≠ .idle) : s.advanceWithin.ph ≠ .idle := by
  rcases s.advanceWithin_cases with e | ⟨e, -, hd, -⟩ <;> rw [e]
  · exact hi
  · exact State.advance_ph_ne_idle hi hd

theorem State.Ok.busyEdge (h : s.Ok) (hi : s.ph ≠ .idle) (tm : Timing) : (s.busyEdge tm).Ok := by
  by_cases hl : s.left ≤ 1
  · rw [State.busyEdge_of_last tm hl]
    exact h.endCycle.settle
  · rcases State.busyEdge_cases tm (Nat.not_le.mp hl) with e | e <;> rw [e]
    · exact (h.endCycle.withLeft hi _).writeCycle
    · exact (h.endCycle.advanceWithin.withLeft (State.advanceWithin_ph_ne_idle hi) _).writeCycle

/-! ## One clock edge -/

theorem clock_of_rst {p : Pins} (hp : p.rst = true) (tm : Timing) (s : State) : clock tm p s = s.resetEdge := if_pos hp

theorem clock_of_busy {p : Pins} (hp : p.rst = false) (tm : Timing) (hi : s.ph ≠ .idle) : clock tm p s = s.busyEdge tm := by
  simp only [clock, hp, State.isIdle_eq_false_iff.mpr hi, Bool.false_eq_true, if_false]

theorem clock_of_accept {p : Pins} (hp : p.rst = false) (hv : p.cmdValid = true) (tm : Timing) (hi : s.ph = .idle) :
    clock tm p s = s.acceptEdge tm p.cmd p.cmdData := by
  simp only [clock, hp, hv, s.isIdle_iff.mpr hi, Bool.false_eq_true, if_false, if_true]

theorem clock_of_quiet {p : Pins} (hp : p.rst = false) (hv : p.cmdValid = false) (tm : Timing) (hi : s.ph = .idle) :
    clock tm p s = s.endCycle := by
  simp only [clock, hp, hv, s.isIdle_iff.mpr hi, Bool.false_eq_true, if_false, if_true]

/-- Settles O52: each kind of edge takes a good state to a good state. -/
theorem clockKeepsTheUnitGood : Obligations.ClockKeepsTheUnitGood := by
  unfold Obligations.ClockKeepsTheUnitGood
  intro tm p s h
  cases hp : p.rst with
  | true =>
    rw [clock_of_rst hp]
    exact State.Ok.resetEdge s
  | false =>
    by_cases hi : s.ph = .idle
    · cases hv : p.cmdValid with
      | true =>
        rw [clock_of_accept hp hv tm hi]
        exact h.acceptEdge hi tm _ _
      | false =>
        rw [clock_of_quiet hp hv tm hi]
        exact h.endCycle
    · rw [clock_of_busy hp tm hi]
      exact h.busyEdge hi tm

end Sys2Proof.Machine
end

section
/-!
PROOFS of the family 10_state.md, part 4: the statements that follow from what a command, a step and a transition can do.
-/

namespace Sys2Proof.Machine

variable {i : Instr} {s t : State}

/-! ## Statements about one step and one command -/

/-- Settles O7. -/
theorem stepRunsTheDecodedCommand : Obligations.StepRunsTheDecodedCommand := by
  unfold Obligations.StepRunsTheDecodedCommand
  exact fun s w d rest i h hd => ⟨step_of_command h hd, fun hi => State.settle_of_idle (s.isIdle_iff.mp hi)⟩

/-- Settles O9, by the cases of a step. -/
theorem everyStepGivesANextState : Obligations.EveryStepGivesANextState := by
  unfold Obligations.EveryStepGivesANextState
  intro s
  obtain ⟨t, ht, -⟩ := step_effect s
  exact ⟨t, ht⟩

/-- Settles O11. -/
theorem resetStateIsGood : Obligations.ResetStateIsGood := by
  unfold Obligations.ResetStateIsGood
  exact .of_idle canonVec_zero canonVec_zero ⟨fun _ => ⟨rfl, rfl⟩, nofun⟩ rfl rfl rfl

/-- Settles O20, by the effects of a command. -/
theorem statusIsWrittenOnlyByErrorAndClear : Obligations.StatusIsWrittenOnlyByErrorAndClear := by
  unfold Obligations.StatusIsWrittenOnlyByErrorAndClear
  exact fun i s t h hi => (effect_of_exec h).status hi

/-- Settles O47, by the effects of a command. -/
theorem commandsWriteOnlyWhatTheyName : Obligations.CommandsWriteOnlyWhatTheyName := by
  unfold Obligations.CommandsWriteOnlyWhatTheyName
  intro i s t h
  have he := effect_of_exec h
  refine ⟨fun j hj => he.reg_of_not_written hj, he.frame, he.sequencer, fun h1 h2 => he.rsp ?_⟩
  rintro (rfl | ⟨r, rfl⟩)
  · exact h1 rfl
  · exact h2 r rfl

/-- A command responds exactly when it is RDS or RDSTAT (R35). -/
theorem Effect.rsp_isSome_iff (h : Effect i s t) (hs : s.rsp = none) :
    t.rsp.isSome = true ↔ i = .rdstat ∨ ∃ r, i = .rds r := by
  constructor
  · intro ht
    by_contra hi
    rw [h.rsp hi, hs] at ht
    cases ht
  · intro hi
    cases h with
    | respond v => rfl
    | skip h | error _ _ h | write _ _ _ _ h | layers _ _ _ _ _ h | clear h =>
      rcases hi with rfl | ⟨r, rfl⟩ <;> simp [runsInError, operandCheck, writesReg, wholeState] at h

/-- Recording an error produces no response (R232). -/
theorem State.illegalCommand_rsp (s : State) (w : CmdWord) : (s.illegalCommand w).rsp = s.rsp := by
  cases he : s.status.err with
  | true => rw [State.illegalCommand, State.raise_of_set he]
  | false => rw [State.illegalCommand, State.raise_of_clear he, State.withError_rsp]

/-- The host presents a legal RDS or RDSTAT word next. -/
def State.readsNext (s : State) : Prop :=
  ∃ (w : CmdWord) (d : Word) (rest : List HostAct), s.host = .command w d :: rest ∧
    (decode w = .cmd .rdstat ∨ ∃ r : RegIdx, decode w = .cmd (.rds r))

/-- When the host presents no command, it presents no read. -/
theorem State.not_readsNext (h : ∀ w d rest, s.host ≠ .command w d :: rest) : ¬ s.readsNext :=
  fun ⟨w, d, rest, hh, _⟩ => h w d rest hh

/-- When it presents a word, that word decides. -/
theorem State.readsNext_iff {w : CmdWord} {d : Word} {rest : List HostAct} (h : s.host = .command w d :: rest) :
    s.readsNext ↔ decode w = .cmd .rdstat ∨ ∃ r : RegIdx, decode w = .cmd (.rds r) := by
  constructor
  · rintro ⟨w', d', rest', h', hd⟩
    rw [h] at h'
    injection h' with hc
    injection hc with hw
    rwa [hw]
  · exact fun hd => ⟨w, d, rest, h, hd⟩

/-- A step responds exactly when the host presents a legal RDS or RDSTAT word, unless the clock stops (R268). -/
theorem StepEffect.rsp_isSome_iff (h : StepEffect s t) (hc : s.clockRuns) : t.rsp.isSome = true ↔ s.readsNext := by
  have silent {u : State} (hu : u.rsp = none) (hn : ¬ s.readsNext) : u.rsp.isSome = true ↔ s.readsNext :=
    ⟨fun h => by simp [hu] at h, fun h => absurd h hn⟩
  cases h with
  | hold h => exact silent rfl (State.not_readsNext (by simp [h]))
  | idle rest h => exact silent rfl (State.not_readsNext (by simp [h]))
  | reset rest h => exact silent rfl (State.not_readsNext (by simp [h]))
  | stop rest h => exact absurd (by rw [h]; rfl) hc
  | command w d rest i h hd he => rw [State.readsNext_iff h, he.rsp_isSome_iff rfl, hd]; simp
  | illegal w d rest why h hd =>
    exact silent (State.illegalCommand_rsp _ _) (by rw [State.readsNext_iff h, hd]; simp)

/-- Settles O48, by the cases of a step. -/
theorem onlyReadsRespond : Obligations.OnlyReadsRespond := by
  unfold Obligations.OnlyReadsRespond
  intro s hc
  obtain ⟨t, ht, he⟩ := step_effect s
  exact ⟨t, ht, he.rsp_isSome_iff hc⟩

/-! ## A recorded error -/

theorem Status.setBusy_of_busy {st : Status} {b : Bool} (h : st.busy = b) : st.setBusy b = st := by
  subst h
  rfl

/-- While ERR = 1 a transition changes nothing of STATUS but BUSY (R237, R238). -/
theorem State.Ok.advance_status_of_err (h : s.Ok) (hi : s.ph ≠ .idle) (he : s.status.err = true) :
    s.advance.status.setBusy false = s.status.setBusy false := by
  by_cases hd : s.ph = .done
  · rw [State.advance_of_done hd]
    obtain ⟨i, hi', hc⟩ := h.started (State.isIdle_eq_false_iff.mpr hi)
    rcases s.finish_cases with ⟨j, -, -, hf⟩ | ⟨j, hj, -, hf⟩ | hf
    · rw [hf]
      rfl
    · have hne : j ≠ .clrerr := by
        rintro rfl
        rw [hj] at hi'
        injection hi' with hi'
        simp [← hi', operandCheck, he] at hc
      rw [hf.status_of_err he hne]
      rfl
    · rw [hf]
      rfl
  · rw [(State.advance_frame hd).2.1]

/-- Carrying a command that has failed its operand check to its end leaves its error as it is (R237, R238). -/
theorem State.Ok.settle_status_of_err (h : s.Ok) (he : s.status.err = true) :
    s.settle.status = s.status.setBusy false := by
  have hk : s.settle.Ok ∧ s.settle.status.setBusy false = s.status.setBusy false := by
    refine State.drain_induction (p := fun u => u.Ok ∧ u.status.setBusy false = s.status.setBusy false) ?_ 16 ⟨h, rfl⟩
    rintro u ⟨hu, hst⟩ hi
    have hue : u.status.err = true := by simpa [he] using congrArg Status.err hst
    exact ⟨hu.advance hi, (hu.advance_status_of_err hi hue).trans hst⟩
  rw [← hk.2, Status.setBusy_of_busy (hk.1.busy_of_idle s.settle_ph)]

/-- Settles O19: the command in progress keeps the error, and so does the one presented. -/
theorem recordedErrorStaysUntilCleared : Obligations.RecordedErrorStaysUntilCleared := by
  unfold Obligations.RecordedErrorStaysUntilCleared
  intro s t hs he ht hreset hclock hclr
  have hst := hs.settle_status_of_err he
  cases stepEffect_of_step ht with
  | hold | idle => exact hst
  | reset rest h => exact absurd (by rw [h]; rfl) hreset
  | stop rest h => exact absurd (by rw [h]; rfl) hclock
  | command w d rest i h hd hi =>
    have hne : i ≠ .clrerr := fun e => hclr w d rest h (e ▸ hd)
    have hse : s.settle.status.err = true := by rw [hst]; exact he
    exact (hi.status_of_err hse hne).trans hst
  | illegal w d rest why h hd =>
    have hse : s.settle.status.err = true := by rw [hst]; exact he
    rw [State.illegalCommand, State.raise_of_set (s := s.settle.accepted w d rest) hse]
    exact hst

/-! ## The round counter -/

theorem rcEntry_eq_ofNat (r : Fin 5) (i : RegIdx) : rcEntry r i = Fin.ofNat 80 (16 * r.val + i.val) :=
  Fin.ext (Nat.mod_eq_of_lt (rcEntry r i).isLt).symm

/-- ADDRC adds the constants of round RND, whichever phase follows (R190, R197). -/
theorem State.advance_work_of_addrc (h : s.ph = .addrc) : s.advance.work = addRc Config.rom s.work s.rnd := by
  by_cases hr : s.rnd = s.last
  · rw [State.advance_of_addrc_last h hr]
  · rw [State.advance_of_addrc_next h hr]

/-- Whether the phases follow one another is up to the command in progress (R196). -/
theorem State.chains_eq (hd : decode s.cmd = .cmd i) : s.chains = chainsPhases i := by
  simp only [State.chains, hd]

/-- Settles O46, phase by phase. -/
theorem roundCounterSelectsItsConstants : Obligations.RoundCounterSelectsItsConstants := by
  unfold Obligations.RoundCounterSelectsItsConstants
  refine ⟨fun s h => ⟨fun i => ?_, fun hr => ?_, fun hr => ?_⟩, fun s h => ?_, fun s h => ?_, fun s h => ?_,
    fun s n => ?_⟩
  · rw [State.advance_work_of_addrc h, addRc_getElem, fadd_toNat, rc_toNat, rcEntry_eq_ofNat]
  · rw [State.advance_of_addrc_last h hr]
    exact ⟨rfl, rfl⟩
  · rw [State.advance_of_addrc_next h (by rintro e; simp [e] at hr)]
    have hl := s.last.isLt
    exact ⟨rfl, Fin.val_add_one_of_lt' (by omega)⟩
  · rcases h with h | h
    · rw [State.advance_of_sub h]
    · rw [State.advance_of_lin h]
  · have hd : s.ph ≠ .done := by rcases h with h | h | h <;> simp [h]
    exact ⟨State.advance_last hd, (State.advance_frame hd).2.2.1⟩
  · have hc : s.chains = true := by
      rcases h with hd | ⟨r, hd⟩ <;> rw [State.chains_eq hd] <;> rfl
    refine ⟨fun h => ?_, fun h => ?_⟩
    · rw [State.advance_of_sub h, hc]
      rfl
    · rw [State.advance_of_lin h, hc]
      rfl
  · refine ⟨⟨rfl, rfl, rfl⟩, fun r hr => ?_⟩
    simp only [State.start, roundIndex?_of_le hr]
    exact ⟨rfl, rfl, rfl⟩

/-! ## The response at the level of the clock -/

/-- Settles O55: RDS has latency 1, so its response stands after its accepting edge. -/
theorem responseLastsOneCycle : Obligations.ResponseLastsOneCycle := by
  unfold Obligations.ResponseLastsOneCycle
  intro tm s w d r q hi hd hq hv
  rw [s.isIdle_iff] at hi
  have hu : s.acceptEdge tm w d = (s.accept w d).respond (s.reg r) := by
    have h := State.exec_acceptEdge (s := s) (tm := tm) (d := d) hd (by rw [staysBusy_iff]; simp [latency])
    injection h.symm
  rw [clock_of_accept rfl rfl tm hi, hu]
  refine ⟨by simp [rspValid, hq], by simp [rspData, hq], by simp [cmdReady, State.isIdle, hq, hi], ?_⟩
  rw [clock_of_quiet (s := (s.accept w d).respond (s.reg r)) hq hv tm hi]
  simp [rspValid]

end Sys2Proof.Machine
end

section
/-!
PROOFS of the family 10_state.md, part 5: a started command, carried to its end, gives the state of its meaning.
-/

namespace Sys2Proof.Machine

variable {i : Instr} {s t : State}

/-! ## What no command and no transition reads -/

/-- The same state with other busy cycles left and another free index. -/
def State.retime (s : State) (n k : Nat) : State := { s with left := n, freeIdx := k }

@[simp] theorem State.retime_ph (s : State) (n k : Nat) : (s.retime n k).ph = s.ph := rfl

theorem checked_retime (i : Instr) {s' : State} (n k : Nat)
    (h : s.unlessError (s.checked (operandCheck i s) (encode i) s') = .next t) :
    (s.retime n k).unlessError ((s.retime n k).checked (operandCheck i s) (encode i) (s'.retime n k)) =
      .next (t.retime n k) := by
  rcases State.unlessError_checked_cases _ _ h with ⟨he, rfl⟩ | ⟨he, e, hc, rfl⟩ | ⟨he, hc, rfl⟩
  · exact State.unlessError_of_set he
  · rw [State.unlessError_of_clear (s := s.retime n k) he, hc, State.checked_some, State.raise_of_clear (s := s.retime n k) he]
    rfl
  · rw [State.unlessError_of_clear (s := s.retime n k) he, hc, State.checked_none]

/-- No command reads the busy cycles left or the free index. -/
theorem exec_retime (n k : Nat) (h : exec i s = .next t) : exec i (s.retime n k) = .next (t.retime n k) := by
  cases i with
  | nop | rds | rdstat | clrerr =>
    injection h with h
    subst h
    rfl
  | wrs rd => exact checked_retime (.wrs rd) n k h
  | fadd rd a b => exact checked_retime (.fadd rd a b) n k h
  | fmul rd a b => exact checked_retime (.fmul rd a b) n k h
  | limbhi rd a => exact checked_retime (.limbhi rd a) n k h
  | limblo rd a => exact checked_retime (.limblo rd a) n k h
  | fromlimbs rd a b => exact checked_retime (.fromlimbs rd a b) n k h
  | byte rd a j => exact checked_retime (.byte rd a j) n k h
  | lut rd a => exact checked_retime (.lut rd a) n k h
  | sbl rd a => exact checked_retime (.sbl rd a) n k h
  | sbp rd a => exact checked_retime (.sbp rd a) n k h
  | sbox => exact checked_retime .sbox n k h
  | mds => exact checked_retime .mds n k h
  | arc r => exact (execArc_eq r _).trans (checked_retime (.arc r) n k ((execArc_eq r s).symm.trans h))
  | round r => exact (execRound_eq r _).trans (checked_retime (.round r) n k ((execRound_eq r s).symm.trans h))
  | perm => exact checked_retime .perm n k h

/-- Leaving DONE reads neither, and leaves no busy cycles. -/
theorem State.finish_retime (s : State) (n k : Nat) : (s.retime n k).finish = s.finish.retime 0 k := by
  cases hd : decode s.cmd with
  | illegal why =>
    rw [State.finish_of_illegal hd, State.finish_of_illegal (s := s.retime n k) hd]
    rfl
  | cmd i =>
    cases hw : wholeState i with
    | true =>
      rw [State.finish_of_wholeState hd hw, State.finish_of_wholeState (s := s.retime n k) hd hw]
      rfl
    | false =>
      have h := State.exec_closed (s := s.retime n k) hd hw
      rw [show (s.retime n k).closed = s.closed.retime 0 k from rfl, exec_retime 0 k (State.exec_closed hd hw)] at h
      injection h.symm

/-- Nor does a transition before DONE. -/
theorem State.advance_retime (hd : s.ph ≠ .done) (n k : Nat) : (s.retime n k).advance = s.advance.retime n k := by
  rcases hp : s.ph with _ | _ | _ | _ | _
  · simp [State.advance, State.retime, hp]
  · rw [State.advance_of_sub hp, State.advance_of_sub (s := s.retime n k) hp]
    rfl
  · rw [State.advance_of_lin hp, State.advance_of_lin (s := s.retime n k) hp]
    rfl
  · by_cases hr : s.rnd = s.last
    · rw [State.advance_of_addrc_last hp hr, State.advance_of_addrc_last (s := s.retime n k) hp hr]
      rfl
    · rw [State.advance_of_addrc_next hp hr, State.advance_of_addrc_next (s := s.retime n k) hp hr]
      rfl
  · exact absurd hp hd

theorem State.toDone_retime (m : Nat) (s : State) (n k : Nat) : (s.retime n k).toDone m = (s.toDone m).retime n k := by
  induction m generalizing s with
  | zero => rfl
  | succ m ih =>
    by_cases h : s.ph = .done ∨ s.ph = .idle
    · simp only [State.toDone, State.retime_ph, h, if_true]
    · simp only [State.toDone, State.retime_ph, h, if_false]
      rw [State.advance_retime (fun hd => h (.inl hd)), ih]

/-! ## The end of a command in progress -/

theorem State.drain_succ_of_ends {n : Nat} (h : (s.drain n).ph = .idle) : s.drain (n + 1) = s.drain n := by
  induction n generalizing s with
  | zero => exact State.drain_of_idle _ h
  | succ n ih =>
    by_cases hi : s.ph = .idle
    · rw [State.drain_of_idle _ hi, State.drain_of_idle _ hi]
    · rw [State.drain_succ_of_busy _ hi] at h ⊢
      rw [ih h, State.drain_succ_of_busy _ hi]

/-- A transition does not change how the command in progress ends. -/
theorem State.settle_advance (s : State) : s.advance.settle = s.settle := by
  by_cases hi : s.ph = .idle
  · rw [State.advance, hi]
  · have h : s.settle = s.advance.drain 15 := State.drain_succ_of_busy 15 hi
    rw [h]
    exact State.drain_succ_of_ends (h ▸ s.settle_ph)

theorem State.settle_of_done (h : s.ph = .done) : s.settle = s.finish := by
  rw [← State.settle_advance, State.advance_of_done h, State.settle_of_idle s.finish_ph]

theorem State.settle_toDone (n : Nat) (s : State) : (s.toDone n).settle = s.settle :=
  State.toDone_induction (p := fun u => u.settle = s.settle) (fun u h _ _ => u.settle_advance.trans h) n rfl

/-- A command in progress ends by going to DONE and leaving it. -/
theorem State.settle_eq_finish (hi : s.ph ≠ .idle) : s.settle = (s.toDone 15).finish := by
  rw [← State.settle_toDone 15, State.settle_of_done (State.toDone_ph 15 hi s.transitionsLeft_le)]

/-- How it ends does not depend on the time. -/
theorem State.settle_retime (hi : s.ph ≠ .idle) (n k : Nat) : (s.retime n k).settle = s.settle.retime 0 k := by
  rw [State.settle_eq_finish hi, State.settle_eq_finish (s := s.retime n k) hi, State.toDone_retime, State.finish_retime]

/-! ## A command ends with its meaning -/

/-- A unit in which no command is in progress. -/
structure State.AtRest (s : State) : Prop where
  ph   : s.ph = .idle
  busy : s.status.busy = false
  left : s.left = 0

theorem State.Ok.atRest (h : s.Ok) (hi : s.ph = .idle) : s.AtRest :=
  ⟨hi, h.busy_of_idle hi, h.left (s.isIdle_iff.mpr hi)⟩

/-- Ending a command that has only been entered gives the state before. -/
theorem State.AtRest.closed_enter (h : s.AtRest) (ph : Phase) (n : Nat) : (s.enter ph n).closed = s := by
  obtain ⟨hp, hb, hl⟩ := h
  have hs : (s.status.setBusy true).setBusy false = s.status := Status.setBusy_of_busy hb
  rw [State.closed, State.enter, hs, ← hp, ← hl]

/-- A command on single registers ends with its meaning. -/
theorem State.AtRest.exec_settle (h : s.AtRest) (hd : decode s.cmd = .cmd i) (hw : wholeState i = false) (n : Nat) :
    exec i s = .next (s.enter .done n).settle := by
  have he := State.exec_closed (s := s.enter .done n) hd hw
  rwa [h.closed_enter, ← State.settle_of_done rfl] at he

/-- A whole-state command in progress on `s`: its phase, its round, the last round, the working state, the cycles left (R196). -/
def State.working (s : State) (ph : Phase) (r l : Fin 5) (V : Elems) (n : Nat) : State :=
  { s.enter ph n with rnd := r, last := l, work := V }

section Working

variable {r l : Fin 5} {V : Elems} {n : Nat} (hd : decode s.cmd = .cmd i)

include hd

theorem State.settle_working_sub : (s.working .sub r l V n).settle =
    (s.working (if chainsPhases i then .lin else .done) r l (sboxLayer Config.rom V) n).settle := by
  rw [← State.settle_advance, State.advance_of_sub rfl, State.chains_eq (s := s.working .sub r l V n) hd]
  rfl

theorem State.settle_working_lin : (s.working .lin r l V n).settle =
    (s.working (if chainsPhases i then .addrc else .done) r l (mdsMultiply Config.rom V) n).settle := by
  rw [← State.settle_advance, State.advance_of_lin rfl, State.chains_eq (s := s.working .lin r l V n) hd]
  rfl

omit hd in
theorem State.settle_working_addrc_last :
    (s.working .addrc r r V n).settle = (s.working .done r r (addRc Config.rom V r) n).settle := by
  rw [← State.settle_advance, State.advance_of_addrc_last rfl rfl]
  rfl

omit hd in
theorem State.settle_working_addrc_next (hr : r ≠ l) :
    (s.working .addrc r l V n).settle = (s.working .sub (r + 1) l (addRc Config.rom V r) n).settle := by
  rw [← State.settle_advance, State.advance_of_addrc_next rfl hr]
  rfl

/-- Leaving DONE writes V to all registers (R43, R196). -/
theorem State.AtRest.settle_working_done (h : s.AtRest) (hw : wholeState i = true) :
    (s.working .done r l V n).settle = (s.schedule r l).commit V := by
  have ht : ((s.schedule r l).commit V).AtRest := ⟨h.ph, h.busy, h.left⟩
  rw [State.settle_of_done rfl, State.finish_of_wholeState (s := s.working .done r l V n) hd hw]
  exact ht.closed_enter .done n

/-- The last round, from SUB to IDLE (R192, R196). -/
theorem State.AtRest.settle_lastRound (h : s.AtRest) (hw : wholeState i = true) (hc : chainsPhases i = true) :
    (s.working .sub r r V n).settle = (s.schedule r r).commit (roundFn Config.rom V r) := by
  rw [State.settle_working_sub hd, hc, if_pos rfl, State.settle_working_lin hd, hc, if_pos rfl,
    State.settle_working_addrc_last, h.settle_working_done hd hw]
  rfl

/-- A round before the last, from SUB to SUB (R192, R196). -/
theorem State.settle_round (hc : chainsPhases i = true) (hr : r ≠ l) :
    (s.working .sub r l V n).settle = (s.working .sub (r + 1) l (roundFn Config.rom V r) n).settle := by
  rw [State.settle_working_sub hd, hc, if_pos rfl, State.settle_working_lin hd, hc, if_pos rfl,
    State.settle_working_addrc_next hr]
  rfl

end Working

/-- A whole-state command ends with its meaning (R193, R195, R196). -/
theorem State.AtRest.exec_settle_start (h : s.AtRest) (he : s.status.err = false) (hd : decode s.cmd = .cmd i)
    (hw : wholeState i = true) (n : Nat) : exec i s = .next (s.start i n).settle := by
  have hwf := decode_wellFormed hd
  cases i with
  | sbox =>
    have hs : (s.start .sbox n).settle = s.commit (sboxLayer Config.rom s.regs) :=
      (State.settle_working_sub (r := s.rnd) (l := s.last) hd).trans (h.settle_working_done hd hw)
    rw [hs]
    exact State.unlessError_of_clear he
  | mds =>
    have hs : (s.start .mds n).settle = s.commit (mdsMultiply Config.rom s.regs) :=
      (State.settle_working_lin (r := s.rnd) (l := s.last) hd).trans (h.settle_working_done hd hw)
    rw [hs]
    exact State.unlessError_of_clear he
  | arc r =>
    have hk := roundIndex?_of_le (of_decide_eq_true hwf)
    simp only [exec, execArc, State.start, hk]
    rw [State.unlessError_of_clear he]
    exact congrArg _ (State.settle_working_addrc_last.trans (h.settle_working_done hd hw)).symm
  | round r =>
    have hk := roundIndex?_of_le (of_decide_eq_true hwf)
    simp only [exec, execRound, State.start, hk]
    rw [State.unlessError_of_clear he]
    exact congrArg _ (h.settle_lastRound hd hw rfl).symm
  | perm =>
    have hs : (s.start .perm n).settle = (s.schedule 4 4).commit (permute Config.rom s.regs) := by
      change (s.working .sub 0 4 s.regs n).settle = _
      rw [State.settle_round hd rfl (by decide), State.settle_round hd rfl (by decide), State.settle_round hd rfl (by decide),
        State.settle_round hd rfl (by decide)]
      exact h.settle_lastRound hd hw rfl
    rw [hs]
    exact State.unlessError_of_clear he
  | _ => cases hw

/-- Started after its operand check, every command ends with its meaning, one that fails the check too (R232, R238, R271). -/
theorem exec_eq_settle_start (h : s.Ok) (hi : s.ph = .idle) (he : s.status.err = false) (hd : decode s.cmd = .cmd i)
    (n : Nat) : exec i s = .next ((s.checkOperands i).start i n).settle := by
  have hwf := decode_wellFormed hd
  have start_single {u : State} (hw : wholeState i = false) : u.start i n = u.enter .done n := by
    rcases State.start_cases hwf u n with ⟨-, e⟩ | ⟨h, -⟩
    · exact e
    · simp [hw] at h
  cases hc : operandCheck i s with
  | none =>
    have hk : s.checkOperands i = s := by rw [State.checkOperands_eq he, hc]
    rw [hk]
    cases hw : wholeState i with
    | true => exact (h.atRest hi).exec_settle_start he hd hw n
    | false =>
      rw [start_single hw]
      exact (h.atRest hi).exec_settle hd hw n
  | some e =>
    have hf : (operandCheck i s).isSome = true := by rw [hc]; rfl
    obtain ⟨hw, hr⟩ := of_operandCheck_isSome hwf hf
    obtain ⟨t, ht, hte⟩ := exec_effect i s
    have hk := (h.checkOperands hi he i).atRest (by rw [s.checkOperands_frame]; exact hi)
    have hx := hk.exec_settle (i := i) (by rwa [State.checkOperands_cmd]) hw n
    have hke : (s.checkOperands i).status.err = true := by rw [State.checkOperands_err he, hf]
    rw [ht, hte.eq_check_of_fails he hf, start_single hw, (effect_of_exec hx).eq_of_dropped hke hr]

end Sys2Proof.Machine
end

section
/-!
PROOFS of the family 10_state.md, part 6: the run of clock edges of an accepted command, by an invariant of its busy cycles.
-/

namespace Sys2Proof.Machine

variable {i : Instr} {s t u : State}

/-! ## A command in progress, cycle by cycle -/

/-- A command on its way to the state `t`, with `n` busy cycles left and its end at the free index `T`: the registers are still `S`,
STATUS is that of the end but for BUSY, and carrying it on gives `t` (R43, R196, R238, R266). -/
structure State.Carries (S : Elems) (t : State) (T n : Nat) (u : State) : Prop where
  ph      : u.ph ≠ .idle
  left    : u.left = n
  regs    : u.regs = S
  status  : u.status = { t.status with busy := true }
  rsp     : u.rsp = none
  time    : u.freeIdx + n = T
  settles : u.settle = t.retime 0 u.freeIdx

/-- The same with its phase: DONE in the last busy cycle, and for a whole-state command in no cycle before (R41). -/
structure State.InProgress (i : Instr) (S : Elems) (t : State) (T n : Nat) (u : State) : Prop
    extends State.Carries S t T n u where
  done   : n = 1 → u.ph = .done
  layer  : wholeState i = true → 1 < n → u.ph ≠ .done

variable {S : Elems} {T m n : Nat}

/-- A transition before DONE carries the command on. -/
theorem State.Carries.advance (h : State.Carries S t T n u) (hd : u.ph ≠ .done) : State.Carries S t T n u.advance := by
  obtain ⟨hr, hs, -, -, hrsp, -, hf⟩ := State.advance_frame hd
  exact ⟨State.advance_ph_ne_idle h.ph hd, (State.advance_left hd).trans h.left, hr.trans h.regs, hs.trans h.status,
    hrsp.trans h.rsp, by rw [hf, h.time], by rw [State.settle_advance, hf, h.settles]⟩

/-- So does the passing of a cycle. -/
theorem State.Carries.retime {k : Nat} (h : State.Carries S t T n u) (hk : k + m = T) :
    State.Carries S t T m (u.retime m k) :=
  ⟨h.ph, rfl, h.regs, h.status, h.rsp, hk, by rw [State.settle_retime h.ph, h.settles]; rfl⟩

/-- At the beginning of a busy cycle the sequencer is in the phase that the cycle needs (R41). -/
theorem State.Carries.writeCycle (h : State.Carries S t T n u) (hl : wholeState i = true → 1 < n → u.ph ≠ .done) :
    State.InProgress i S t T n u.writeCycle where
  toCarries := State.writeCycle_induction (fun _ h _ hd => h.advance hd) h
  done hn := State.writeCycle_ph h.ph (h.left.trans hn)
  layer hw hn := by
    rw [State.writeCycle_of_ne (by rw [h.left]; omega)]
    exact hl hw hn

/-- With no response to end, the end of a cycle only counts. -/
theorem State.endCycle_eq_retime (h : s.rsp = none) : s.endCycle = s.retime s.left (s.freeIdx + 1) := by
  rw [State.endCycle, ← h]
  rfl

/-- An edge before the last busy cycle leaves the command in progress. -/
theorem State.InProgress.next (h : State.InProgress i S t T n u) (hn : 1 < n) (tm : Timing) :
    State.InProgress i S t T (n - 1) (u.busyEdge tm) := by
  have hT : u.freeIdx + 1 + (n - 1) = T := by have := h.time; omega
  have hstay : (u.endCycle.withLeft (u.left - 1)) = u.retime (n - 1) (u.freeIdx + 1) := by
    rw [State.endCycle_eq_retime h.rsp, h.left]
    rfl
  have hkeep := (h.retime hT).writeCycle (i := i) fun hw _ => h.layer hw hn
  rcases State.busyEdge_cases tm (h.left ▸ hn : 1 < u.left) with e | e <;> rw [e]
  · rwa [hstay]
  · rcases u.endCycle.advanceWithin_cases with e | ⟨e, -, hd, hd'⟩ <;> rw [e]
    · rwa [hstay]
    · replace hd : u.ph ≠ .done := hd
      have hgo : u.endCycle.advance = u.advance.retime n (u.freeIdx + 1) := by
        rw [State.endCycle_eq_retime h.rsp, State.advance_retime hd, h.left]
      rw [hgo, h.left]
      exact ((h.advance hd).retime hT).writeCycle fun _ _ => by rwa [hgo] at hd'

/-- The edge that ends the last busy cycle gives the end of the command (R266). -/
theorem State.InProgress.last (h : State.InProgress i S t T 1 u) (tm : Timing) : u.busyEdge tm = t.retime 0 T := by
  rw [State.busyEdge_of_last tm h.left.le, State.endCycle_eq_retime h.rsp, State.settle_retime h.ph, h.settles, h.time]
  rfl

/-- A run of edges without reset, from the first busy cycle to the end. -/
theorem State.InProgress.run {tm : Timing} {ps : List Pins} (h : State.InProgress i S t T ps.length u) (hne : ps ≠ [])
    (hps : ∀ p ∈ ps, p.rst = false) :
    (∀ m < ps.length, State.InProgress i S t T (ps.length - m) (clocks tm (ps.take m) u)) ∧
      clocks tm ps u = t.retime 0 T := by
  induction ps generalizing u with
  | nil => exact absurd rfl hne
  | cons p ps ih =>
    have hedge : clock tm p u = u.busyEdge tm := clock_of_busy (hps p List.mem_cons_self) tm h.ph
    by_cases hnil : ps = []
    · subst hnil
      refine ⟨fun m hm => ?_, hedge.trans (h.last tm)⟩
      obtain rfl : m = 0 := by simpa using hm
      exact h
    · have hlen : 0 < ps.length := List.length_pos_iff.mpr hnil
      have hnext : State.InProgress i S t T ps.length (clock tm p u) := hedge ▸ h.next (by simpa using hlen) tm
      obtain ⟨hall, hend⟩ := ih hnext hnil fun q hq => hps q (List.mem_cons_of_mem p hq)
      refine ⟨fun m hm => ?_, hend⟩
      cases m with
      | zero => exact h
      | succ m =>
        have := hall m (Nat.lt_of_succ_lt_succ hm)
        rwa [List.length_cons, Nat.add_sub_add_right]

/-! ## From the accepting edge on -/

variable {tm : Timing} {w : CmdWord} {d : Word}

theorem ne_clrerr_of_latency (h : 1 < latency tm i) : i ≠ .clrerr := by
  rintro rfl
  exact absurd h (by simp [latency])

/-- A command that stays busy is in progress after its accepting edge, on its way to its meaning (R266, R271). -/
theorem State.acceptEdge_inProgress (hs : s.Ok) (hi : s.ph = .idle) (hd : decode w = .cmd i)
    (hb : staysBusy tm i (s.accept w d) = true) (ht : exec i (s.accept w d) = .next t) :
    State.InProgress i s.regs t (t.freeIdx + (latency tm i - 1)) (latency tm i - 1) (s.acceptEdge tm w d) := by
  obtain ⟨hlat, he⟩ := staysBusy_iff.mp hb
  have hwf := decode_wellFormed hd
  have hte := effect_of_exec ht
  rw [State.acceptEdge_of_staysBusy hd hb]
  generalize latency tm i - 1 = n
  have hsettle : (((s.accept w d).checkOperands i).start i n).settle = t := by
    rw [exec_eq_settle_start (hs.accept hi w d) hi he hd n] at ht
    injection ht
  obtain ⟨hregs, hrsp, hfree, hleft, hstatus⟩ := State.start_checkOperands hwf (s.accept w d) n
  obtain ⟨hfree', hleft'⟩ : t.freeIdx = s.freeIdx + 1 ∧ t.left = 0 := by
    rw [hte.frame]
    exact ⟨rfl, (hs.atRest hi).left⟩
  rw [← hte.status_eq_check he (ne_clrerr_of_latency hlat)] at hstatus
  refine State.Carries.writeCycle ⟨State.start_ph_ne_idle hwf _ n, hleft, hregs, hstatus, hrsp, ?_, ?_⟩ fun hw _ => ?_
  · rw [hfree, hfree']
    rfl
  · rw [hsettle, hfree, State.accept_freeIdx, ← hfree', State.retime, ← hleft']
  · rcases State.start_cases hwf ((s.accept w d).checkOperands i) n with ⟨h, -⟩ | ⟨-, ph, r, l, -, hp, e⟩
    · simp [h] at hw
    · rw [e]
      exact hp

/-- The run of an accepted command over the busy cycles of its latency, none if it is dropped, ends in its meaning's state (R271). -/
theorem State.acceptEdge_run {ps : List Pins} (hs : s.Ok) (hi : s.ph = .idle) (hd : decode w = .cmd i)
    (hps : ∀ p ∈ ps, p.rst = false) (hlen : ps.length = if s.status.err = true then 0 else latency tm i - 1)
    (ht : exec i (s.accept w d) = .next t) :
    (∀ n < ps.length, State.InProgress i s.regs t (t.freeIdx + ps.length) (ps.length - n)
      (clocks tm (ps.take n) (s.acceptEdge tm w d))) ∧
    clocks tm ps (s.acceptEdge tm w d) = { t with freeIdx := t.freeIdx + ps.length } := by
  have hleft : t.left = 0 := by
    rw [(effect_of_exec ht).frame]
    exact (hs.atRest hi).left
  by_cases hb : staysBusy tm i (s.accept w d) = true
  · obtain ⟨hlat, he⟩ := staysBusy_iff.mp hb
    have hn : ps.length = latency tm i - 1 := by simpa [show s.status.err = false from he] using hlen
    have hrun := State.acceptEdge_inProgress hs hi hd hb ht
    rw [← hn] at hrun
    obtain ⟨hbusy, hend⟩ := hrun.run (List.ne_nil_of_length_pos (by omega)) hps
    exact ⟨hbusy, by rw [hend, State.retime, ← hleft]⟩
  · have hnil : ps.length = 0 := by
      rw [hlen]
      split
      · rfl
      · next he =>
        have : ¬ 1 < latency tm i := fun h => hb (staysBusy_iff.mpr ⟨h, by simpa using he⟩)
        omega
    obtain rfl := List.length_eq_zero_iff.mp hnil
    have h := State.exec_acceptEdge hd hb
    rw [ht] at h
    injection h with h
    exact ⟨nofun, h.symm⟩

/-- Settles O51: in its busy cycles a command is in progress, and then it has ended. -/
theorem clockLevelRunEqualsTheMeaning : Obligations.ClockLevelRunEqualsTheMeaning := by
  unfold Obligations.ClockLevelRunEqualsTheMeaning
  intro tm s w d i ps hs hi hd hps hlen
  rw [s.isIdle_iff] at hi
  obtain ⟨t, ht, -⟩ := exec_effect i (s.accept w d)
  obtain ⟨hbusy, hend⟩ := State.acceptEdge_run hs hi hd hps hlen ht
  rw [clock_of_accept rfl rfl tm hi]
  refine ⟨t, ht, fun n hn => ?_, hend⟩
  have h := hbusy n hn
  refine ⟨by rw [busyOut, h.status], fun q => ?_, h.regs, h.status⟩
  rw [cmdReady, State.isIdle_eq_false_iff.mpr h.ph, Bool.and_false]

/-- Settles O58, by the phases of a command in progress. -/
theorem doneIsTheCycleInWhichTheResultIsWritten : Obligations.DoneIsTheCycleInWhichTheResultIsWritten := by
  unfold Obligations.DoneIsTheCycleInWhichTheResultIsWritten
  intro tm s w d i ps hs hi he hd hps hlen
  rw [s.isIdle_iff] at hi
  obtain ⟨t, ht, hte⟩ := exec_effect i (s.accept w d)
  obtain ⟨hbusy, hend⟩ := State.acceptEdge_run hs hi hd hps (by simpa [he] using hlen) ht
  rw [clock_of_accept rfl rfl tm hi]
  refine ⟨fun n hn => ?_, ?_⟩
  · have h := hbusy n hn
    exact ⟨h.regs, fun hl => h.done (by omega), fun hw hl => ⟨h.layer hw (by omega), h.ph⟩⟩
  · rw [hend, hte.frame]
    exact hi

end Sys2Proof.Machine
end

section
/-!
PROOFS of the family 30_encoding.md, part 1: the decoder and the encoder are inverse to each other, and the words they
agree on are the legal words of `legalWord`. Every fact about 32 bits is had from the five fields of the word (R81).
-/

namespace Sys2Proof

variable {w : CmdWord} {r : Row} {i : Instr}

/-! ## At most one row fits (R89) -/

/-- Every row checks all of OPC (R92). -/
theorem opcField_mask : ∀ r ∈ rows, opcField r.mask = 255#8 := by decide

/-- A row is known by its opcode (R85, R92). -/
theorem row_eq_of_opcField : ∀ a ∈ rows, ∀ b ∈ rows, opcField a.matchBits = opcField b.matchBits → a = b := by decide

/-- A word has the opcode of a row that fits it. -/
theorem opcField_of_fits (hr : r ∈ rows) (h : r.fits w = true) : opcField r.matchBits = opcField w := by
  have hm : w &&& r.mask = r.matchBits := beq_iff_eq.mp h
  have hmask : r.mask.extractLsb' 24 8 = 255#8 := opcField_mask r hr
  rw [← hm, opcField, BitVec.extractLsb'_and, hmask, and_255, opcField]

/-- Two rows that fit one word have its opcode and are the same row (R89). -/
theorem row_unique {a b : Row} (ha : a ∈ rows) (hb : b ∈ rows) (hwa : a.fits w = true) (hwb : b.fits w = true) : a = b :=
  row_eq_of_opcField a ha b hb ((opcField_of_fits ha hwa).trans (opcField_of_fits hb hwb).symm)

/-- Settles O4, by the opcode of the word. -/
theorem atMostOneRowFitsAWord : Obligations.AtMostOneRowFitsAWord := by
  unfold Obligations.AtMostOneRowFitsAWord
  exact fun w a ha b hb => row_unique ha hb

/-! ## The decoder by the row that fits -/

/-- The decoder answers with the command of the row that fits (R89). -/
theorem decode_of_fits (hr : r ∈ rows) (h : r.fits w = true) : decode w = build r.op w := by
  unfold decode
  cases hf : rows.find? (·.fits w) with
  | none => exact absurd h (List.find?_eq_none.mp hf r hr)
  | some r' => rw [row_unique (List.mem_of_find?_eq_some hf) hr (List.find?_some hf :) h]

/-- A word that decodes to a command is fitted by a row. -/
theorem exists_fits_of_decode (h : decode w = .cmd i) : ∃ r ∈ rows, r.fits w = true := by
  unfold decode at h
  cases hf : rows.find? (·.fits w) with
  | none => simp [hf] at h
  | some r => exact ⟨r, List.mem_of_find?_eq_some hf, (List.find?_some hf :)⟩

/-! ## The word of a command -/

/-- The word of a command fits the row of its mnemonic and no other (R92). -/
theorem fits_encode_iff (i : Instr) : ∀ r ∈ rows, r.fits (encode i) = true ↔ r.op = opOf i := by
  cases i with
  | nop => exact Laws.Matches.nop
  | wrs rd => exact Laws.Matches.wrs rd
  | rds rs1 => exact Laws.Matches.rds rs1
  | rdstat => exact Laws.Matches.rdstat
  | clrerr => exact Laws.Matches.clrerr
  | fadd rd rs1 rs2 => exact Laws.Matches.fadd rd rs1 rs2
  | fmul rd rs1 rs2 => exact Laws.Matches.fmul rd rs1 rs2
  | limbhi rd rs1 => exact Laws.Matches.limbhi rd rs1
  | limblo rd rs1 => exact Laws.Matches.limblo rd rs1
  | fromlimbs rd rs1 rs2 => exact Laws.Matches.fromlimbs rd rs1 rs2
  | byte rd rs1 k => exact Laws.Matches.byte rd rs1 k
  | lut rd rs1 => exact Laws.Matches.lut rd rs1
  | sbl rd rs1 => exact Laws.Matches.sbl rd rs1
  | sbp rd rs1 => exact Laws.Matches.sbp rd rs1
  | sbox => exact Laws.Matches.sbox
  | mds => exact Laws.Matches.mds
  | arc r => exact Laws.Matches.arc r
  | round r => exact Laws.Matches.round r
  | perm => exact Laws.Matches.perm

/-- Every mnemonic has a row (R85, R92). -/
theorem exists_row (op : Op) : ∃ r ∈ rows, r.op = op := by
  cases op <;> decide

/-- The word of a command is read by the mnemonic's row. -/
theorem decode_encode_eq_build (i : Instr) : decode (encode i) = build (opOf i) (encode i) := by
  obtain ⟨r, hr, hop⟩ := exists_row (opOf i)
  rw [decode_of_fits hr ((fits_encode_iff i r hr).mpr hop), hop]

theorem byteIndexField_assembleWord_ofNat (o : BitVec 8) (a b c : RegIdx) (k : Fin 4) :
    byteIndexField (assembleWord o a b c (BitVec.ofNat 12 k.val)) = k := by
  apply Fin.ext
  rw [byteIndexField_assembleWord, BitVec.toNat_ofNat]
  omega

theorem roundIndexField_assembleWord_ofNat (o : BitVec 8) (a b c : RegIdx) (r : Fin 8) :
    roundIndexField (assembleWord o a b c (BitVec.ofNat 12 r.val)) = r := by
  apply Fin.ext
  rw [roundIndexField_assembleWord, BitVec.toNat_ofNat]
  omega

/-- The operands are taken from the fields the encoder puts them in, and a round index of 5, 6 or 7 is refused (R83, R84, R87). -/
theorem build_encode (i : Instr) :
    build (opOf i) (encode i) = if i.wellFormed = true then .cmd i else .illegal .roundIndex := by
  cases i with
  | arc r | round r =>
    simp only [build, opOf, encode, roundIndexField_assembleWord_ofNat, Instr.wellFormed, decide_eq_true_eq, gt_iff_lt,
      ← Nat.not_le, ite_not]
  | _ =>
    simp only [build, opOf, encode, rdField_assembleWord, rs1Field_assembleWord, rs2Field_assembleWord,
      byteIndexField_assembleWord_ofNat, Instr.wellFormed, if_true]

/-- What the decoder makes of the word of any command. -/
theorem decode_encode (i : Instr) :
    decode (encode i) = if i.wellFormed = true then .cmd i else .illegal .roundIndex :=
  (decode_encode_eq_build i).trans (build_encode i)

/-- Settles O1: the word fits the row of its mnemonic alone, and each operand is read from the field it was put in. -/
theorem decodeOfEncodeIsIdentity : Obligations.DecodeOfEncodeIsIdentity := by
  unfold Obligations.DecodeOfEncodeIsIdentity
  intro i hi
  rw [decode_encode, if_pos hi]

/-! ## Every word that fits a row is the word of a command -/

/-- The fields a row does not check are the operands of a command, and the others are those of its word (R86, R92). -/
theorem exists_encode_of_fits_assembleWord (o : BitVec 8) (a b c : RegIdx) (m : BitVec 12) :
    ∀ r ∈ rows, r.fits (assembleWord o a b c m) = true → ∃ i, encode i = assembleWord o a b c m := by
  have short {n : Nat} (hn : m.toNat < n) : BitVec.ofNat 12 (Fin.mk m.toNat hn).val = m := by simp
  simp only [rows_fields, List.forall_mem_cons, fits_assembleWord, and_255, and_15, and_4095, BitVec.and_zero,
    regBits_eq_zero, imm_and_4092, imm_and_4088, decide_eq_true_eq, true_and]
  refine ⟨?nop, ?wrs, ?rds, ?rdstat, ?clrerr, ?fadd, ?fmul, ?limbhi, ?limblo, ?fromlimbs, ?byte, ?lut, ?sbl, ?sbp, ?sbox,
    ?mds, ?arc, ?round, ?perm, nofun⟩
  case nop => rintro ⟨rfl, rfl, rfl, rfl, rfl⟩; exact ⟨.nop, rfl⟩
  case wrs => rintro ⟨rfl, rfl, rfl, rfl⟩; exact ⟨.wrs a, rfl⟩
  case rds => rintro ⟨rfl, rfl, rfl, rfl⟩; exact ⟨.rds b, rfl⟩
  case rdstat => rintro ⟨rfl, rfl, rfl, rfl, rfl⟩; exact ⟨.rdstat, rfl⟩
  case clrerr => rintro ⟨rfl, rfl, rfl, rfl, rfl⟩; exact ⟨.clrerr, rfl⟩
  case fadd => rintro ⟨rfl, rfl⟩; exact ⟨.fadd a b c, rfl⟩
  case fmul => rintro ⟨rfl, rfl⟩; exact ⟨.fmul a b c, rfl⟩
  case limbhi => rintro ⟨rfl, rfl, rfl⟩; exact ⟨.limbhi a b, rfl⟩
  case limblo => rintro ⟨rfl, rfl, rfl⟩; exact ⟨.limblo a b, rfl⟩
  case fromlimbs => rintro ⟨rfl, rfl⟩; exact ⟨.fromlimbs a b c, rfl⟩
  case byte => rintro ⟨rfl, rfl, hm⟩; exact ⟨.byte a b ⟨m.toNat, hm⟩, by rw [encode, short]; rfl⟩
  case lut => rintro ⟨rfl, rfl, rfl⟩; exact ⟨.lut a b, rfl⟩
  case sbl => rintro ⟨rfl, rfl, rfl⟩; exact ⟨.sbl a b, rfl⟩
  case sbp => rintro ⟨rfl, rfl, rfl⟩; exact ⟨.sbp a b, rfl⟩
  case sbox => rintro ⟨rfl, rfl, rfl, rfl, rfl⟩; exact ⟨.sbox, rfl⟩
  case mds => rintro ⟨rfl, rfl, rfl, rfl, rfl⟩; exact ⟨.mds, rfl⟩
  case arc => rintro ⟨rfl, rfl, rfl, rfl, hm⟩; exact ⟨.arc ⟨m.toNat, hm⟩, by rw [encode, short]; rfl⟩
  case round => rintro ⟨rfl, rfl, rfl, rfl, hm⟩; exact ⟨.round ⟨m.toNat, hm⟩, by rw [encode, short]; rfl⟩
  case perm => rintro ⟨rfl, rfl, rfl, rfl, rfl⟩; exact ⟨.perm, rfl⟩

theorem exists_encode_of_fits (hr : r ∈ rows) (h : r.fits w = true) : ∃ i, encode i = w := by
  rw [← assemble_fields w] at h ⊢
  exact exists_encode_of_fits_assembleWord _ _ _ _ _ r hr h

/-- A word that decodes to a command is that command's word (R88). -/
theorem encode_of_decode (h : decode w = .cmd i) : encode i = w := by
  obtain ⟨r, hr, hf⟩ := exists_fits_of_decode h
  obtain ⟨j, rfl⟩ := exists_encode_of_fits hr hf
  rw [decode_encode] at h
  split at h
  · injection h with h
    rw [h]
  · cases h

/-- Settles O2: a row that fits a word leaves no bit of it unread. -/
theorem encodeOfDecodeIsIdentity : Obligations.EncodeOfDecodeIsIdentity := by
  unfold Obligations.EncodeOfDecodeIsIdentity
  exact fun w i h => ⟨Machine.decode_wellFormed h, encode_of_decode h⟩

end Sys2Proof

namespace Sys2Proof.Machine

variable {w : CmdWord} {i : Instr}

/-! ## Legal words (R85, R86, R87) -/

section
variable (o : BitVec 8) (a b c : RegIdx) (m : BitVec 12)

/-- The bits of each field, as `legalWord` reads them (R10, R81). -/
theorem bitsOf_assembleWord :
    bitsOf (assembleWord o a b c m) 31 24 = o.toNat ∧ bitsOf (assembleWord o a b c m) 23 20 = a.val ∧
      bitsOf (assembleWord o a b c m) 19 16 = b.val ∧ bitsOf (assembleWord o a b c m) 15 12 = c.val ∧
      bitsOf (assembleWord o a b c m) 11 0 = m.toNat := by
  have := m.isLt
  simp only [bitsOf, assembleWord_toNat]
  omega

/-- A legal word by its fields. -/
theorem legalWord_assembleWord_iff : legalWord (assembleWord o a b c m) = true ↔
    (o ∈ [0x00, 0x03, 0x04, 0x23, 0x30, 0x33] ∧ a = 0 ∧ b = 0 ∧ c = 0 ∧ m = 0) ∨
    (o = 0x01 ∧ b = 0 ∧ c = 0 ∧ m = 0) ∨ (o = 0x02 ∧ a = 0 ∧ c = 0 ∧ m = 0) ∨
    (o ∈ [0x10, 0x11, 0x14] ∧ m = 0) ∨ (o ∈ [0x12, 0x13, 0x20, 0x21, 0x22] ∧ c = 0 ∧ m = 0) ∨
    (o = 0x15 ∧ c = 0 ∧ m.toNat ≤ 3) ∨ (o ∈ [0x31, 0x32] ∧ a = 0 ∧ b = 0 ∧ c = 0 ∧ m.toNat ≤ 4) := by
  simp [legalWord, bitsOf_assembleWord, or_assoc, and_assoc, ← BitVec.toNat_inj]

end

theorem byteImm_toNat (k : Fin 4) : (BitVec.ofNat 12 k.val).toNat = k.val := by
  rw [BitVec.toNat_ofNat]
  omega

theorem roundImm_toNat (r : Fin 8) : (BitVec.ofNat 12 r.val).toNat = r.val := by
  rw [BitVec.toNat_ofNat]
  omega

/-- The word of a command is legal exactly when the command is well formed (R86, R87). -/
theorem legalWord_encode_iff (i : Instr) : legalWord (encode i) = true ↔ i.wellFormed = true := by
  cases i with
  | byte rd rs1 k =>
    simp [encode, legalWord_assembleWord_iff, Instr.wellFormed, byteImm_toNat, Nat.le_of_lt_succ k.isLt,
      -BitVec.toNat_ofNat]
  | arc r | round r => simp [encode, legalWord_assembleWord_iff, Instr.wellFormed, roundImm_toNat, -BitVec.toNat_ofNat]
  | _ => simp [encode, legalWord_assembleWord_iff, Instr.wellFormed]

/-- A legal word is fitted by a row (R85, R92). -/
theorem exists_fits_of_legalWord (h : legalWord w = true) : ∃ r ∈ rows, r.fits w = true := by
  rw [← assemble_fields w] at h ⊢
  generalize opcField w = o, rdField w = a, rs1Field w = b, rs2Field w = c, immField w = m at h ⊢
  simp only [legalWord_assembleWord_iff, List.mem_cons, List.not_mem_nil, or_false] at h
  simp only [rows_fields, List.mem_cons, exists_eq_or_imp, fits_assembleWord, and_255, and_15, and_4095, BitVec.and_zero,
    regBits_eq_zero, imm_and_4092, imm_and_4088, decide_eq_true_eq, true_and]
  rcases h with ⟨ho, ha, hb, hc, hm⟩ | ⟨ho, hb, hc, hm⟩ | ⟨ho, ha, hc, hm⟩ | ⟨ho, hm⟩ | ⟨ho, hc, hm⟩ | ⟨ho, hc, hm⟩ |
    ⟨ho, ha, hb, hc, hm⟩
  · rcases ho with rfl | rfl | rfl | rfl | rfl | rfl <;> simp [*]
  · simp [*]
  · simp [*]
  · rcases ho with rfl | rfl | rfl <;> simp [*]
  · rcases ho with rfl | rfl | rfl | rfl | rfl <;> simp [*]
  · simp [ho, hc]
    omega
  · rcases ho with rfl | rfl <;> simp [ha, hb, hc] <;> omega

/-- A legal word decodes to a well-formed command whose word it is (R88). -/
theorem exists_decode_of_legalWord (h : legalWord w = true) :
    ∃ i : Instr, i.wellFormed = true ∧ decode w = .cmd i ∧ encode i = w := by
  obtain ⟨r, hr, hf⟩ := exists_fits_of_legalWord h
  obtain ⟨i, rfl⟩ := exists_encode_of_fits hr hf
  have hi := (legalWord_encode_iff i).mp h
  exact ⟨i, hi, decodeOfEncodeIsIdentity i hi, rfl⟩

/-- Every other word is illegal (R88). -/
theorem exists_illegal_of_not_legalWord (h : ¬ legalWord w = true) : ∃ why, decode w = .illegal why := by
  cases hd : decode w with
  | illegal why => exact ⟨why, rfl⟩
  | cmd i =>
    obtain ⟨hi, rfl⟩ := encodeOfDecodeIsIdentity w i hd
    exact absurd ((legalWord_encode_iff i).mpr hi) h

/-- Settles O3: legal words are the words of well-formed commands, and the decoder tells those apart. -/
theorem everyWordIsOneCommandOrIllegal : Obligations.EveryWordIsOneCommandOrIllegal := by
  unfold Obligations.EveryWordIsOneCommandOrIllegal
  intro w
  split
  next h =>
    obtain ⟨i, hi, hd, he⟩ := exists_decode_of_legalWord h
    refine ⟨i, hi, hd, he, fun j hj hw => ?_⟩
    have hdj := decodeOfEncodeIsIdentity j hj
    rw [hw, hd] at hdj
    injection hdj with hij
    exact hij.symm
  next h => exact exists_illegal_of_not_legalWord h

end Sys2Proof.Machine
end

section
/-!
PROOFS of the family 30_encoding.md, part 2: what the unit does with a word that is presented to it.
-/

namespace Sys2Proof.Machine

variable {i : Instr} {s t : State}

/-- Settles O5, by running the decoder on the fifteen words. -/
theorem decoderReadsExampleWords : Obligations.DecoderReadsExampleWords := by
  unfold Obligations.DecoderReadsExampleWords
  decide

/-- Settles O8: a word of 32 bits has nothing above them for the data word. -/
theorem placedCommandRunsNext : Obligations.PlacedCommandRunsNext := by
  unfold Obligations.PlacedCommandRunsNext
  intro s w i hi hd
  have hcmd : BitVec.ofNat 32 (w.toNat % 2 ^ 32) = w := by
    rw [Nat.mod_eq_of_lt w.isLt, BitVec.ofNat_toNat, BitVec.setWidth_eq]
  have hdata : BitVec.ofNat 64 (w.toNat % 2 ^ 32 / 2 ^ 32) = 0 := by
    rw [Nat.div_eq_of_lt (Nat.mod_lt _ (by decide))]
    rfl
  have hhost : (s.withFetchWord 32 w.toNat).host = .command w 0 :: s.host := by
    rw [State.withFetchWord, hcmd, hdata]
  rw [step_of_command hhost hd, State.settle_of_idle (s := s.withFetchWord 32 w.toNat) (s.isIdle_iff.mp hi)]
  rfl

/-! ## Illegal words at the clock -/

/-- Recording an illegal word leaves the unit's phase and BUSY alone (R232). -/
theorem State.illegalCommand_frame (s : State) (w : CmdWord) :
    (s.illegalCommand w).ph = s.ph ∧ (s.illegalCommand w).status.busy = s.status.busy := by
  cases he : s.status.err with
  | true => rw [State.illegalCommand, State.raise_of_set he]; exact ⟨rfl, rfl⟩
  | false => rw [State.illegalCommand, State.raise_of_clear he]; exact ⟨rfl, rfl⟩

/-- Settles O57: the accepting edge raises E_ILLEGAL, which ERR = 1 drops. -/
theorem acceptedIllegalWordIsRecordedOrDropped : Obligations.AcceptedIllegalWordIsRecordedOrDropped := by
  unfold Obligations.AcceptedIllegalWordIsRecordedOrDropped
  intro tm s w d hi hw
  obtain ⟨why, hd⟩ := exists_illegal_of_not_legalWord (w := w) (by simp [hw])
  have hedge : clock tm { rst := false, cmdValid := true, cmd := w, cmdData := d } s = (s.accept w d).illegalCommand w := by
    rw [clock_of_accept rfl rfl tm (s.isIdle_iff.mp hi), State.acceptEdge_of_illegal hd]
  obtain ⟨hph, hbusy⟩ := (s.accept w d).illegalCommand_frame w
  rw [hedge]
  refine ⟨fun he => State.raise_of_clear (s := s.accept w d) he _ _,
    fun he => State.raise_of_set (s := s.accept w d) he _ _, hbusy, fun q hq => ⟨?_, ?_⟩⟩
  · rw [cmdReady, hq, State.isIdle, hph]
    exact hi
  · rw [rspValid, State.illegalCommand_rsp, State.accept_rsp, Option.isSome_none, Bool.and_false]

/-! ## The data word -/

/-- The same state with another sampled data word. -/
def State.withData (s : State) (d : Word) : State := { s with cmdData := d }

theorem checked_withData (i : Instr) {s' : State} (d : Word)
    (h : s.unlessError (s.checked (operandCheck i s) (encode i) s') = .next t) :
    (s.withData d).unlessError ((s.withData d).checked (operandCheck i s) (encode i) (s'.withData d)) =
      .next (t.withData d) := by
  rcases State.unlessError_checked_cases _ _ h with ⟨he, rfl⟩ | ⟨he, e, hc, rfl⟩ | ⟨he, hc, rfl⟩
  · exact State.unlessError_of_set he
  · rw [State.unlessError_of_clear (s := s.withData d) he, hc, State.checked_some,
      State.raise_of_clear (s := s.withData d) he]
    rfl
  · rw [State.unlessError_of_clear (s := s.withData d) he, hc, State.checked_none]

/-- No command but WRS reads the data word (R82). -/
theorem exec_withData (hi : ∀ rd, i ≠ .wrs rd) (d : Word) (h : exec i s = .next t) :
    exec i (s.withData d) = .next (t.withData d) := by
  have checkedCase {s' : State} := checked_withData (s := s) (t := t) i (s' := s') d
  cases i with
  | wrs rd => exact absurd rfl (hi rd)
  | nop | rds | rdstat | clrerr =>
    injection h with h
    subst h
    rfl
  | arc r => exact (execArc_eq r _).trans (checkedCase ((execArc_eq r s).symm.trans h))
  | round r => exact (execRound_eq r _).trans (checkedCase ((execRound_eq r s).symm.trans h))
  | _ => exact checkedCase h

/-- Settles O49: the command that has not read the data word leaves it as it stands. -/
theorem dataWordIsReadByWrsAlone : Obligations.DataWordIsReadByWrsAlone := by
  unfold Obligations.DataWordIsReadByWrsAlone
  intro i s d hi
  obtain ⟨t, ht, -⟩ := exec_effect i s
  exact ⟨t, ht, exec_withData hi d ht⟩

end Sys2Proof.Machine
end

section
/-!
PROOFS of the family 30_encoding.md, part 3: the assembler (R90). A line's command is written once with operands cut to their fields,
and the assembler gives that command exactly when no operand is cut.
-/

namespace Sys2Proof.Machine

variable {l : AsmLine}

/-! ## Operands -/

theorem asmReg_eq (n : Nat) : asmReg n = if n < 16 then some (Fin.ofNat 16 n) else none := by
  unfold asmReg
  split
  next h => simp [Fin.ofNat, Nat.mod_eq_of_lt h]
  next => rfl

theorem asmByteIndex_eq (n : Nat) : asmByteIndex n = if n < 4 then some (Fin.ofNat 4 n) else none := by
  unfold asmByteIndex
  split
  next h => simp [Fin.ofNat, Nat.mod_eq_of_lt h]
  next => rfl

theorem asmRound_eq (n : Nat) : asmRound n = if n < 5 then some (Fin.ofNat 8 n) else none := by
  unfold asmRound
  split
  next h => simp [Fin.ofNat, Nat.mod_eq_of_lt (show n < 8 by omega)]
  next => rfl

/-! ## Lines -/

/-- The command of a line, each operand cut to its field (R90). -/
def AsmLine.instr : AsmLine → Instr
  | .nop => .nop
  | .wrs d _ => .wrs (Fin.ofNat 16 d)
  | .rds a => .rds (Fin.ofNat 16 a)
  | .rdstat => .rdstat
  | .clrerr => .clrerr
  | .fadd d a b => .fadd (Fin.ofNat 16 d) (Fin.ofNat 16 a) (Fin.ofNat 16 b)
  | .fmul d a b => .fmul (Fin.ofNat 16 d) (Fin.ofNat 16 a) (Fin.ofNat 16 b)
  | .limbhi d a => .limbhi (Fin.ofNat 16 d) (Fin.ofNat 16 a)
  | .limblo d a => .limblo (Fin.ofNat 16 d) (Fin.ofNat 16 a)
  | .fromlimbs d h l => .fromlimbs (Fin.ofNat 16 d) (Fin.ofNat 16 h) (Fin.ofNat 16 l)
  | .byte d a k => .byte (Fin.ofNat 16 d) (Fin.ofNat 16 a) (Fin.ofNat 4 k)
  | .lut d a => .lut (Fin.ofNat 16 d) (Fin.ofNat 16 a)
  | .sbl d a => .sbl (Fin.ofNat 16 d) (Fin.ofNat 16 a)
  | .sbp d a => .sbp (Fin.ofNat 16 d) (Fin.ofNat 16 a)
  | .sbox => .sbox
  | .mds => .mds
  | .arc r => .arc (Fin.ofNat 8 r)
  | .round r => .round (Fin.ofNat 8 r)
  | .perm => .perm

/-- The assembler gives a line's command and its data word when every operand is in range, and refuses the line otherwise (R90). -/
theorem AsmLine.assemble_eq (l : AsmLine) :
    l.assemble = if l.inRange = true then some (l.instr, BitVec.ofNat 64 l.fields.data) else none := by
  cases l with
  | nop | rdstat | clrerr | sbox | mds | perm => rfl
  | _ =>
    simp only [AsmLine.assemble, AsmLine.inRange, AsmLine.instr, AsmLine.fields, asmReg_eq, asmByteIndex_eq, asmRound_eq,
      asmData, Bool.and_eq_true, decide_eq_true_eq]
    split_ifs <;> simp_all [-Nat.reducePow]

theorem AsmLine.instr_wellFormed (h : l.inRange = true) : l.instr.wellFormed = true := by
  cases l with
  | arc r | round r =>
    have hr : r < 5 := of_decide_eq_true h
    simp only [AsmLine.instr, Instr.wellFormed, Fin.val_ofNat, decide_eq_true_eq]
    omega
  | _ => rfl

/-- An operand in range fits its field. -/
theorem AsmLine.fields_lt (h : l.inRange = true) : l.fields.opc < 2 ^ 8 ∧ l.fields.rd < 2 ^ 4 ∧ l.fields.rs1 < 2 ^ 4 ∧
    l.fields.rs2 < 2 ^ 4 ∧ l.fields.imm < 2 ^ 12 ∧ l.fields.data < 2 ^ 64 := by
  cases l <;> simp only [AsmLine.inRange, Bool.and_eq_true, decide_eq_true_eq] at h <;> simp only [AsmLine.fields] <;> omega

/-- The word of a line's command is put together from the fields of R90. -/
theorem AsmLine.encode_instr (h : l.inRange = true) : encode l.instr =
    assembleWord (BitVec.ofNat 8 l.fields.opc) (Fin.ofNat 16 l.fields.rd) (Fin.ofNat 16 l.fields.rs1)
      (Fin.ofNat 16 l.fields.rs2) (BitVec.ofNat 12 l.fields.imm) := by
  cases l with
  | byte d a k =>
    simp only [AsmLine.inRange, Bool.and_eq_true, decide_eq_true_eq] at h
    rw [AsmLine.instr, encode, Fin.val_ofNat, Nat.mod_eq_of_lt h.2]
    rfl
  | arc r | round r =>
    have hr : r < 5 := of_decide_eq_true h
    rw [AsmLine.instr, encode, Fin.val_ofNat, Nat.mod_eq_of_lt (by omega)]
    rfl
  | _ => rfl

/-- What the host presents for a line in range (R90). -/
theorem AsmLine.hostAct_of_inRange (h : l.inRange = true) :
    l.hostAct = some (.command (encode l.instr) (BitVec.ofNat 64 l.fields.data)) := by
  rw [AsmLine.hostAct, l.assemble_eq, if_pos h, Option.map_some]

/-- Settles O6: what the assembler gives, by the fields of the line. -/
theorem assemblerRefusesOutOfRangeOperands : Obligations.AssemblerRefusesOutOfRangeOperands := by
  unfold Obligations.AssemblerRefusesOutOfRangeOperands
  intro l
  have hasm := l.assemble_eq
  split
  next h =>
    rw [if_pos h] at hasm
    obtain ⟨hopc, hrd, hrs1, hrs2, himm, hdata⟩ := AsmLine.fields_lt h
    refine ⟨l.instr, BitVec.ofNat 64 l.fields.data, hasm, AsmLine.instr_wellFormed h, ?_, ?_,
      AsmLine.hostAct_of_inRange h⟩
    · rw [AsmLine.encode_instr h, assembleWord_toNat, BitVec.toNat_ofNat, BitVec.toNat_ofNat, Fin.val_ofNat, Fin.val_ofNat,
        Fin.val_ofNat]
      omega
    · rw [BitVec.toNat_ofNat, Nat.mod_eq_of_lt hdata]
  next h => rw [hasm, if_neg h]

end Sys2Proof.Machine
end

section
/-!
PROOFS of the family 30_encoding.md, part 4: the host's sequence for a permutation (R91, R215), by what one WRS, PERM and RDS do to an
idle unit without an error.
-/

namespace Sys2Proof.Machine

variable {s t : State} {V : Elems} {rest : List HostAct} {i : RegIdx}

/-! ## Runs -/

/-- A run of a machine begins with a step. -/
theorem machineRun_succ (M : Host.Core) {s t : M.State} (h : M.step s = .next t) (n : Nat) :
    M.run (n + 1) s = M.run n t := by
  rw [Host.Core.run, h]

theorem run_succ (h : step s = .next t) (n : Nat) : core.run (n + 1) s = core.run n t := machineRun_succ core h n

/-- A run goes on from where a first part of it has come. -/
theorem run_add {m : Nat} (n : Nat) (h : core.run m s = .next t) : core.run (m + n) s = core.run n t := by
  induction m generalizing s with
  | zero =>
    injection h with h
    rw [Nat.zero_add, h]
  | succ m ih =>
    obtain ⟨u, hu, -⟩ := step_effect s
    rw [run_succ hu] at h
    rw [Nat.add_right_comm, run_succ hu, ih h]

/-- A run ends with a step. -/
theorem run_step {m : Nat} {u : State} (h : core.run m s = .next t) (hu : step t = .next u) :
    core.run (m + 1) s = .next u :=
  (run_add 1 h).trans (run_succ hu 0)

/-! ## The commands of the sequence -/

/-- An idle unit without an error, with `V` in its registers and `acts` to come from the host. -/
structure State.Ready (s : State) (V : Elems) (acts : List HostAct) : Prop where
  idle : s.ph = .idle
  err  : s.status.err = false
  regs : s.regs = V
  host : s.host = acts

/-- What the host presents for WRS, PERM and RDS (R90). -/
def wrsAct (x : Vector Nat 16) (i : RegIdx) : HostAct := .command (encode (.wrs i)) (BitVec.ofNat 64 x[i])

def permAct : HostAct := .command (encode .perm) 0

def rdsAct (i : RegIdx) : HostAct := .command (encode (.rds i)) 0

/-- A well-formed command that the host presents next runs on the accepted state. -/
theorem State.Ready.step_eq {i : Instr} {d : Word} (h : s.Ready V (.command (encode i) d :: rest))
    (hi : i.wellFormed = true) : step s = exec i (s.accepted (encode i) d rest) := by
  rw [step_of_command h.host (decodeOfEncodeIsIdentity i hi), State.settle_of_idle h.idle]

theorem State.Ready.wrs {x : Vector Nat 16} (h : s.Ready V (wrsAct x i :: rest)) (hx : x[i] < P) :
    ∃ t, step s = .next t ∧ t.Ready (V.set i (BitVec.ofNat 64 x[i])) rest := by
  have hcheck : wrsCheck (BitVec.ofNat 64 x[i]) = none := by
    have := P_lt
    rw [wrsCheck, BitVec.toNat_ofNat, Nat.mod_eq_of_lt (by omega), if_neg (by omega)]
  let a := s.accepted (encode (.wrs i)) (BitVec.ofNat 64 x[i]) rest
  refine ⟨a.setReg i (BitVec.ofNat 64 x[i]), ?_, h.idle, h.err, by rw [← h.regs]; rfl, rfl⟩
  calc step s
    _ = execWrs i a := h.step_eq rfl
    _ = a.unlessError (a.checked (wrsCheck (BitVec.ofNat 64 x[i])) _ _) := rfl
    _ = .next (a.setReg i (BitVec.ofNat 64 x[i])) := by
      rw [State.unlessError_of_clear (s := a) h.err, hcheck, State.checked_none]
      rfl

theorem State.Ready.perm (h : s.Ready V (permAct :: rest)) :
    ∃ t, step s = .next t ∧ t.Ready (permute Config.rom V) rest := by
  let a := s.accepted (encode .perm) 0 rest
  refine ⟨(a.schedule 4 4).commit (permute Config.rom a.regs), ?_, h.idle, h.err, by rw [← h.regs]; rfl, rfl⟩
  rw [h.step_eq rfl]
  exact State.unlessError_of_clear (s := a) h.err

theorem State.Ready.rds (h : s.Ready V (rdsAct i :: rest)) :
    ∃ t, step s = .next t ∧ t.Ready V rest ∧ t.rsp = some V[i] := by
  let a := s.accepted (encode (.rds i)) 0 rest
  exact ⟨a.respond (a.reg i), h.step_eq rfl, ⟨h.idle, h.err, h.regs, rfl⟩, by rw [← h.regs]; rfl⟩

/-! ## Lists of commands -/

/-- The registers after a WRS of the inputs at each of the positions. -/
def loaded (x : Vector Nat 16) (V : Elems) (is : List RegIdx) : Elems :=
  is.foldl (fun V (i : RegIdx) => V.set i (BitVec.ofNat 64 x[i])) V

theorem loaded_getElem (x : Vector Nat 16) (j : RegIdx) (is : List RegIdx) (V : Elems) :
    (loaded x V is)[j] = if j ∈ is then BitVec.ofNat 64 x[j] else V[j] := by
  induction is generalizing V with
  | nil => rfl
  | cons i is ih =>
    rw [loaded, List.foldl_cons, ← loaded, ih]
    by_cases hj : j = i
    · subst hj
      simp
    · have hne : i.val ≠ j.val := fun e => hj (Fin.ext e.symm)
      simp [hj, hne]

/-- Writing every position leaves nothing of the registers before. -/
theorem loaded_finRange (x : Vector Nat 16) (V : Elems) :
    loaded x V (List.finRange 16) = tabulate fun i => BitVec.ofNat 64 x[i] := by
  apply elems_ext
  intro i
  rw [loaded_getElem, tabulate_getElem, if_pos (List.mem_finRange i)]

theorem State.Ready.run_wrs {x : Vector Nat 16} (hx : ∀ i : RegIdx, x[i] < P) (is : List RegIdx)
    (h : s.Ready V (is.map (wrsAct x) ++ rest)) :
    ∃ t, core.run is.length s = .next t ∧ t.Ready (loaded x V is) rest := by
  induction is generalizing s V with
  | nil => exact ⟨s, rfl, h⟩
  | cons i is ih =>
    obtain ⟨u, hu, hur⟩ := h.wrs (hx i)
    obtain ⟨t, ht, htr⟩ := ih hur
    exact ⟨t, by rw [List.length_cons, run_succ hu, ht], htr⟩

theorem State.Ready.run_rds (is : List RegIdx) (h : s.Ready V (is.map rdsAct ++ rest)) :
    ∃ t, core.run is.length s = .next t ∧ t.Ready V rest := by
  induction is generalizing s with
  | nil => exact ⟨s, rfl, h⟩
  | cons i is ih =>
    obtain ⟨u, hu, hur, -⟩ := h.rds
    obtain ⟨t, ht, htr⟩ := ih hur
    exact ⟨t, by rw [List.length_cons, run_succ hu, ht], htr⟩

/-- What the host presents for the pseudo-instruction permute (R91). -/
theorem hostActs_permute {x : Vector Nat 16} (hx : ∀ i : RegIdx, x[i] < P) :
    hostActs (Pseudo.expand (.permute x)) =
      some ((List.finRange 16).map (wrsAct x) ++ [permAct] ++ (List.finRange 16).map rdsAct) := by
  have hreg (i : RegIdx) : Fin.ofNat 16 i.val = i := Fin.ext (Nat.mod_eq_of_lt i.isLt)
  have hwrs : AsmLine.hostAct ∘ (fun i : RegIdx => AsmLine.wrs i.val x[i]) = fun i => some (wrsAct x i) := by
    funext i
    have hin : (AsmLine.wrs i.val x[i]).inRange = true := by
      have := P_lt
      have := hx i
      simp only [AsmLine.inRange, Bool.and_eq_true, decide_eq_true_eq]
      omega
    rw [Function.comp_apply, AsmLine.hostAct_of_inRange hin, AsmLine.instr, hreg]
    rfl
  have hrds : AsmLine.hostAct ∘ (fun i : RegIdx => AsmLine.rds i.val) = fun i => some (rdsAct i) := by
    funext i
    rw [Function.comp_apply, AsmLine.hostAct_of_inRange (l := .rds i.val) (decide_eq_true i.isLt), AsmLine.instr, hreg]
    rfl
  have hsome (f : RegIdx → HostAct) : (List.finRange 16).mapM (fun i => some (f i)) = some ((List.finRange 16).map f) :=
    List.mapM_pure
  rw [hostActs, Pseudo.expand, wrstateLines, rdstateLines, List.mapM_append, List.mapM_append, List.mapM_map,
    List.mapM_map, hwrs, hrds, hsome, hsome]
  rfl

/-- Settles O56: the sixteen WRS load the inputs, PERM permutes them, and each RDS reads one of them. -/
theorem hostSequenceComputesThePermutation : Obligations.HostSequenceComputesThePermutation := by
  unfold Obligations.HostSequenceComputesThePermutation
  intro s x hi he hx hacts
  rw [hostActs_permute hx] at hacts
  injection hacts with hacts
  have hs : s.Ready s.regs s.host := ⟨s.isIdle_iff.mp hi, he, rfl, rfl⟩
  rw [← hacts, List.append_assoc] at hs
  obtain ⟨u, hu, hur⟩ := hs.run_wrs hx
  rw [loaded_finRange] at hur
  obtain ⟨v, hv, hvr⟩ := hur.perm
  have hrun : core.run 17 s = .next v := run_step hu hv
  refine ⟨⟨v, hrun, hvr.regs, hvr.err⟩, fun k => ?_⟩
  have hsplit : List.finRange 16 = (List.finRange 16).take k ++ k :: (List.finRange 16).drop (k + 1) := by
    revert k
    decide
  rw [hsplit, List.map_append, List.map_cons] at hvr
  obtain ⟨r, hr, hrr⟩ := hvr.run_rds
  obtain ⟨t, ht, htr, hrsp⟩ := hrr.rds
  refine ⟨t, ?_, hrsp, htr.err⟩
  have hlen : ((List.finRange 16).take k).length = k := by simp
  rw [hlen, ← run_add _ hrun] at hr
  have hend := run_step hr ht
  rwa [Nat.add_right_comm] at hend

end Sys2Proof.Machine
end

section
/-!
PROOFS of the family 40_field_arithmetic.md, part 1: the functions of §1 on integers. The field laws, the limbs of an element and the
bytes of a limb (R112, R113, R114, R115, R116, R124).
-/

namespace Sys2Proof.Machine

/-! ## Field laws -/

variable (a b c : Word)

theorem fadd_comm : fadd a b = fadd b a := by
  rw [fadd, fadd, Nat.add_comm]

theorem fmul_comm : fmul a b = fmul b a := by
  rw [fmul, fmul, Nat.mul_comm]

theorem fadd_assoc : fadd (fadd a b) c = fadd a (fadd b c) := by
  apply BitVec.eq_of_toNat_eq
  rw [fadd_toNat, fadd_toNat, fadd_toNat, fadd_toNat, Nat.mod_add_mod, Nat.add_mod_mod, Nat.add_assoc]

theorem fmul_assoc : fmul (fmul a b) c = fmul a (fmul b c) := by
  apply BitVec.eq_of_toNat_eq
  rw [fmul_toNat, fmul_toNat, fmul_toNat, fmul_toNat, Nat.mod_mul_mod, Nat.mul_mod_mod, Nat.mul_assoc]

theorem fmul_fadd : fmul a (fadd b c) = fadd (fmul a b) (fmul a c) := by
  apply BitVec.eq_of_toNat_eq
  rw [fmul_toNat, fadd_toNat, fadd_toNat, fmul_toNat, fmul_toNat, Nat.mul_mod_mod, Nat.mod_add_mod, Nat.add_mod_mod,
    Nat.mul_add]

/-- Settles O32, law by law. -/
theorem fieldLawsHold : Obligations.FieldLawsHold := by
  unfold Obligations.FieldLawsHold
  exact fun a b c => ⟨fadd_comm a b, fmul_comm a b, fadd_assoc a b c, fmul_assoc a b c, fmul_fadd a b c⟩

/-! ## Bytes of a limb -/

/-- A limb is the sum of its bytes, byte 0 the least significant (R66). -/
theorem toNat_eq_sum_toBytes (l : Limb) : l.toNat = (toBytes l)[0].toNat + 256 * (toBytes l)[1].toNat +
    65536 * (toBytes l)[2].toNat + 16777216 * (toBytes l)[3].toNat := by
  have h0 : (toBytes l)[0].toNat = l.toNat / 2 ^ 0 % 2 ^ 8 := toBytes_toNat l 0
  have h1 : (toBytes l)[1].toNat = l.toNat / 2 ^ 8 % 2 ^ 8 := toBytes_toNat l 1
  have h2 : (toBytes l)[2].toNat = l.toNat / 2 ^ 16 % 2 ^ 8 := toBytes_toNat l 2
  have h3 : (toBytes l)[3].toNat = l.toNat / 2 ^ 24 % 2 ^ 8 := toBytes_toNat l 3
  have := l.isLt
  rw [h0, h1, h2, h3]
  omega

theorem fromBytes_toBytes (l : Limb) : fromBytes (toBytes l) = l := by
  rw [fromBytes, ← toNat_eq_sum_toBytes, BitVec.ofNat_toNat, BitVec.setWidth_eq]

/-- Settles O31. -/
theorem bytesRebuildTheLimb : Obligations.BytesRebuildTheLimb := by
  unfold Obligations.BytesRebuildTheLimb
  exact fun l => ⟨fromBytes_toBytes l, toNat_eq_sum_toBytes l⟩

/-! ## Limbs of an element -/

theorem fromLimbs_toLimbs : fromLimbs (toLimbs a).1 (toLimbs a).2 = a := by
  apply BitVec.eq_of_toNat_eq
  rw [fromLimbs_toNat, toLimbs_hi_toNat, toLimbs_lo_toNat, Nat.div_add_mod']

/-- A register that holds a limb, narrowed to the limb, keeps the number (R122, R123). -/
theorem toNat_setWidth_limb {x : Word} (h : x.toNat < 2 ^ 32) : (x.setWidth 32).toNat = x.toNat := by
  rw [BitVec.toNat_setWidth, Nat.mod_eq_of_lt h]

theorem fromlimbsCheck_of_range {h l : Word} (hr : 2 ^ 32 ≤ h.toNat ∨ 2 ^ 32 ≤ l.toNat) :
    fromlimbsCheck h l = some .range := if_pos hr

theorem fromlimbsCheck_of_limbs {h l : Word} (hr : ¬ (2 ^ 32 ≤ h.toNat ∨ 2 ^ 32 ≤ l.toNat)) :
    fromlimbsCheck h l = if P ≤ h.toNat * 2 ^ 32 + l.toNat then some .noncanon else none := if_neg hr

/-- R120. -/
theorem toLimbs_hi_setWidth_toNat : ((toLimbs a).1.setWidth 64).toNat = a.toNat / 2 ^ 32 := by
  rw [BitVec.toNat_setWidth_of_le (by decide), toLimbs_hi_toNat]

/-- R121. -/
theorem toLimbs_lo_setWidth_toNat : ((toLimbs a).2.setWidth 64).toNat = a.toNat % 2 ^ 32 := by
  rw [BitVec.toNat_setWidth_of_le (by decide), toLimbs_lo_toNat]

/-- The two limbs of a canonical element pass the check of FROMLIMBS (R124). -/
theorem fromlimbsCheck_toLimbs (ha : canon a) :
    fromlimbsCheck ((toLimbs a).1.setWidth 64) ((toLimbs a).2.setWidth 64) = none := by
  have hhi := toLimbs_hi_setWidth_toNat a
  have hlo := toLimbs_lo_setWidth_toNat a
  have := a.isLt
  rw [fromlimbsCheck_of_limbs (by omega), hhi, hlo, Nat.div_add_mod']
  exact if_neg (Nat.not_le.mpr ha)

end Sys2Proof.Machine
end

section
/-!
PROOFS of the family 40_field_arithmetic.md, part 2: the commands of §3 while no error is recorded. Each writes one register, or its
operand check fails and the error is recorded (R231, R235); what is written is a function of part 1.
-/

namespace Sys2Proof.Machine

variable {i : Instr} {s : State} {rd rs1 rs2 : RegIdx} {v : Word}

/-! ## What the commands do with ERR = 0 -/

/-- A command whose operand check fails records the error of the check (R232). -/
theorem exec_of_check_fails {e : ErrCause} (he : s.status.err = false) (hc : operandCheck i s = some e) :
    exec i s = .next (s.withError e.code (encode i)) := by
  obtain ⟨t, ht, hi⟩ := exec_effect i s
  rw [ht, hi.eq_check_of_fails he (by rw [hc]; rfl), State.checkOperands_eq he, hc]

/-- A command that writes one register writes it when its operand check passes (R235). -/
theorem exec_of_check_passes
    (hi : exec i s = s.unlessError (s.checked (operandCheck i s) (encode i) (s.setReg rd v)))
    (he : s.status.err = false) (hc : operandCheck i s = none) : exec i s = .next (s.setReg rd v) := by
  rw [hi, State.unlessError_of_clear he, hc, State.checked_none]

theorem exec_fadd (he : s.status.err = false) :
    exec (.fadd rd rs1 rs2) s = .next (s.setReg rd (fadd (s.reg rs1) (s.reg rs2))) :=
  exec_of_check_passes rfl he rfl

theorem exec_fmul (he : s.status.err = false) :
    exec (.fmul rd rs1 rs2) s = .next (s.setReg rd (fmul (s.reg rs1) (s.reg rs2))) :=
  exec_of_check_passes rfl he rfl

theorem exec_limbhi (he : s.status.err = false) :
    exec (.limbhi rd rs1) s = .next (s.setReg rd ((toLimbs (s.reg rs1)).1.setWidth 64)) :=
  exec_of_check_passes rfl he rfl

theorem exec_limblo (he : s.status.err = false) :
    exec (.limblo rd rs1) s = .next (s.setReg rd ((toLimbs (s.reg rs1)).2.setWidth 64)) :=
  exec_of_check_passes rfl he rfl

theorem exec_fromlimbs (he : s.status.err = false) (hc : fromlimbsCheck (s.reg rs1) (s.reg rs2) = none) :
    exec (.fromlimbs rd rs1 rs2) s =
      .next (s.setReg rd (fromLimbs ((s.reg rs1).setWidth 32) ((s.reg rs2).setWidth 32))) :=
  exec_of_check_passes rfl he hc

theorem exec_byte {k : Fin 4} (he : s.status.err = false) (hc : byteCheck (s.reg rs1) = none) :
    exec (.byte rd rs1 k) s = .next (s.setReg rd ((toBytes ((s.reg rs1).setWidth 32))[k].setWidth 64)) :=
  exec_of_check_passes rfl he hc

/-- What a statement about a command that has written one register asks for: the next state, the frame, and the number written. -/
theorem exists_next_of_write {n : Nat} (h : exec i s = .next (s.setReg rd v)) (hv : v.toNat = n) :
    ∃ t, exec i s = .next t ∧ s.ChangesOnlyReg t rd ∧ (t.reg rd).toNat = n :=
  ⟨_, h, s.changesOnlyReg_setReg rd v, by rw [State.reg_setReg_self, hv]⟩

/-! ## Statements about one command -/

/-- Settles O26. -/
theorem fmulMultipliesModuloP : Obligations.FmulMultipliesModuloP := by
  unfold Obligations.FmulMultipliesModuloP
  exact fun s rd rs1 rs2 he => exists_next_of_write (exec_fmul he) (fmul_toNat _ _)

/-- Settles O25: of two canonical operands the sum is reduced by at most one subtraction of P. -/
theorem faddAddsModuloP : Obligations.FaddAddsModuloP := by
  unfold Obligations.FaddAddsModuloP
  intro s rd rs1 rs2 he a b
  obtain ⟨t, ht, hframe, hsum⟩ := exists_next_of_write (exec_fadd (rd := rd) he) (fadd_toNat (s.reg rs1) (s.reg rs2))
  refine ⟨t, ht, hframe, hsum, fun ha hb => ?_⟩
  rw [hsum, Nat.add_mod_eq_ite, Nat.mod_eq_of_lt ha, Nat.mod_eq_of_lt hb]

/-- Settles O27. -/
theorem limbCommandsWriteTheHalves : Obligations.LimbCommandsWriteTheHalves := by
  unfold Obligations.LimbCommandsWriteTheHalves
  intro s rd rs1 he
  constructor
  · exact exists_next_of_write (exec_limbhi he) (toLimbs_hi_setWidth_toNat _)
  · exact exists_next_of_write (exec_limblo he) (toLimbs_lo_setWidth_toNat _)

/-- Settles O28, along the branches of the operand check. -/
theorem fromlimbsComposesOrRaises : Obligations.FromlimbsComposesOrRaises := by
  unfold Obligations.FromlimbsComposesOrRaises
  intro s rd rs1 rs2 he h l
  split
  case isTrue hr => exact exec_of_check_fails (i := .fromlimbs rd rs1 rs2) (e := .range) he (fromlimbsCheck_of_range hr)
  case isFalse hr =>
    have hcheck := fromlimbsCheck_of_limbs hr
    split
    case isTrue hP => exact exec_of_check_fails (i := .fromlimbs rd rs1 rs2) (e := .noncanon) he (hcheck.trans (if_pos hP))
    case isFalse hP =>
      refine exists_next_of_write (exec_fromlimbs he (hcheck.trans (if_neg hP))) ?_
      obtain ⟨hh, hl⟩ := not_or.mp hr
      rw [fromLimbs_toNat, toNat_setWidth_limb (Nat.not_le.mp hh), toNat_setWidth_limb (Nat.not_le.mp hl)]

/-- Settles O29, along the branches of the operand check. -/
theorem byteExtractsOrRaises : Obligations.ByteExtractsOrRaises := by
  unfold Obligations.ByteExtractsOrRaises
  intro s rd rs1 k he l
  split
  case isTrue hr => exact exec_of_check_fails (i := .byte rd rs1 k) (e := .range) he (if_pos hr)
  case isFalse hr =>
    refine exists_next_of_write (exec_byte he (if_neg hr)) ?_
    rw [BitVec.toNat_setWidth_of_le (by decide), toBytes_toNat, toNat_setWidth_limb (Nat.not_le.mp hr)]

/-! ## An element taken apart and put together again -/

/-- FROMLIMBS of registers that hold the two limbs of a canonical element gives the element back (R124). -/
theorem exec_fromlimbs_of_toLimbs {a : Word} (he : s.status.err = false) (ha : canon a)
    (hhi : s.reg rs1 = (toLimbs a).1.setWidth 64) (hlo : s.reg rs2 = (toLimbs a).2.setWidth 64) :
    exec (.fromlimbs rd rs1 rs2) s = .next (s.setReg rd a) := by
  have hcheck : fromlimbsCheck (s.reg rs1) (s.reg rs2) = none := by
    rw [hhi, hlo, fromlimbsCheck_toLimbs a ha]
  rw [exec_fromlimbs he hcheck, hhi, hlo, BitVec.setWidth_setWidth_of_le _ (by decide),
    BitVec.setWidth_setWidth_of_le _ (by decide), BitVec.setWidth_eq, BitVec.setWidth_eq, fromLimbs_toLimbs]

/-- Settles O30: LIMBLO still reads the element, and FROMLIMBS reads the two limbs. -/
theorem limbsComposeBackToTheElement : Obligations.LimbsComposeBackToTheElement := by
  unfold Obligations.LimbsComposeBackToTheElement
  intro s a h l d he ha hha hlh
  let s1 := s.setReg h ((toLimbs (s.reg a)).1.setWidth 64)
  let s2 := s1.setReg l ((toLimbs (s1.reg a)).2.setWidth 64)
  have hkept : s1.reg a = s.reg a := s.reg_setReg_of_ne _ hha.symm
  have hhi : s2.reg h = (toLimbs (s.reg a)).1.setWidth 64 := by
    rw [s1.reg_setReg_of_ne _ hlh.symm, s.reg_setReg_self]
  have hlo : s2.reg l = (toLimbs (s.reg a)).2.setWidth 64 := by
    rw [s1.reg_setReg_self, hkept]
  exact ⟨s1, s2, s2.setReg d (s.reg a), exec_limbhi he, exec_limblo (s := s1) he,
    exec_fromlimbs_of_toLimbs (s := s2) he ha hhi hlo, s2.reg_setReg_self d _⟩

end Sys2Proof.Machine
end

section
/-!
PROOFS of the family 41_lookup_and_sboxes.md, part 1: the two S-boxes as functions on integers (R142, R143, R145, R146).
-/

namespace Sys2Proof.Machine

/-! ## The Power S-box -/

/-- R145, from R146's chain of four field multiplications. -/
theorem fpow7_toNat (a : Word) : (fpow7 a).toNat = a.toNat ^ 7 % P := by
  have hchain : fpow7 a = fmul (fmul (fmul (fmul a a) a) (fmul (fmul a a) a)) a := rfl
  have hpow : a.toNat * a.toNat * a.toNat * (a.toNat * a.toNat * a.toNat) * a.toNat = a.toNat ^ 7 := by ring
  simp only [hchain, fmul_toNat, Nat.mod_mul_mod, Nat.mul_mod_mod, hpow]

/-! ## The Split-and-Lookup S-box -/

/-- A half is substituted by its bits 15:0 alone (R142). -/
theorem halfSbox_congr (rom : Rom) {h h' : Limb} (e : h.toNat % 2 ^ 16 = h'.toNat % 2 ^ 16) :
    halfSbox rom h = halfSbox rom h' := by
  have hlow : h.toNat % 256 = h'.toNat % 256 := by omega
  have hhigh : h.toNat / 256 % 256 = h'.toNat / 256 % 256 := by omega
  apply BitVec.eq_of_toNat_eq
  rw [halfSbox_toNat, halfSbox_toNat, hlow, hhigh]

/-- Bits 31:16 and 63:48 do not affect the result (R143). -/
theorem lookupSbox_congr (rom : Rom) {a b : Word} (hlo : a.toNat % 2 ^ 16 = b.toNat % 2 ^ 16)
    (hhi : a.toNat / 2 ^ 32 % 2 ^ 16 = b.toNat / 2 ^ 32 % 2 ^ 16) : lookupSbox rom a = lookupSbox rom b := by
  have hhigh : halfSbox rom (toLimbs a).1 = halfSbox rom (toLimbs b).1 :=
    halfSbox_congr rom (by rwa [toLimbs_hi_toNat, toLimbs_hi_toNat])
  have hlow : halfSbox rom (toLimbs a).2 = halfSbox rom (toLimbs b).2 :=
    halfSbox_congr rom (by rw [toLimbs_lo_toNat, toLimbs_lo_toNat]; omega)
  rw [lookupSbox, lookupSbox, hhigh, hlow]

/-- Both halves of the result are below `2^16` (R143). -/
theorem lookupSbox_halves_lt (rom : Rom) (a : Word) :
    (lookupSbox rom a).toNat / 2 ^ 32 < 2 ^ 16 ∧ (lookupSbox rom a).toNat % 2 ^ 32 < 2 ^ 16 := by
  have hhi := halfSbox_lt rom (toLimbs a).1
  have hlo := halfSbox_lt rom (toLimbs a).2
  rw [lookupSbox, fromLimbs_toNat]
  omega

/-- Settles O35. The two elements with the same result are 0 and `2^16`, which differ in a dropped bit only. -/
theorem lookupSboxDropsTheUpperBytes : Obligations.LookupSboxDropsTheUpperBytes := by
  unfold Obligations.LookupSboxDropsTheUpperBytes
  intro rom
  refine ⟨fun a b => lookupSbox_congr rom, fun a => ?_, 0, 0x10000, by decide, by decide, by decide,
    lookupSbox_congr rom (by decide) (by decide)⟩
  obtain ⟨hhi, hlo⟩ := lookupSbox_halves_lt rom a
  exact ⟨hhi, hlo, by omega, canon_lookupSbox rom a⟩

end Sys2Proof.Machine
end

section
/-!
PROOFS of the family 41_lookup_and_sboxes.md, part 2: the power map is a bijection (R146). P is prime by Lucas's criterion with the
generator 7, and 7 is coprime to P - 1, so that some power undoes the seventh power.
-/

namespace Sys2Proof.Machine

/-! ## P is prime -/

/-- R146: P - 1 = 2^32 · 3 · 5 · 17 · 257 · 65537. -/
theorem eq_of_prime_dvd_P_sub_one {q : Nat} (hq : q.Prime) (hd : q ∣ P - 1) :
    q = 2 ∨ q = 3 ∨ q = 5 ∨ q = 17 ∨ q = 257 ∨ q = 65537 := by
  rw [show P - 1 = 2 ^ 32 * 3 * 5 * 17 * 257 * 65537 by decide] at hd
  simpa (disch := norm_num) only
    [hq.dvd_mul, hq.prime.dvd_pow_iff_dvd, Nat.prime_dvd_prime_iff_eq hq, or_assoc] using hd

theorem prime_P : P.Prime := by
  apply lucas_primality P 7
  · reduce_mod_char
  · intro q hq hd
    rcases eq_of_prime_dvd_P_sub_one hq hd with rfl | rfl | rfl | rfl | rfl | rfl
    all_goals
      reduce_mod_char
      decide

/-! ## Seventh roots -/

/-- Modulo a prime, a power with an exponent coprime to `p - 1` is undone by a power (Fermat). -/
theorem exists_pow_pow_eq_self {p n : Nat} (hp : p.Prime) (h2 : 1 < p - 1) (hn : n.Coprime (p - 1)) :
    ∃ d, ∀ x : ZMod p, (x ^ n) ^ d = x := by
  have := Fact.mk hp
  obtain ⟨d, -, hd⟩ := Nat.exists_mul_mod_eq_one_of_coprime hn h2
  refine ⟨d, fun x => ?_⟩
  rw [← pow_mul]
  rcases eq_or_ne x 0 with rfl | hx
  · have hnd : n * d ≠ 0 := fun h => by simp [h] at hd
    rw [zero_pow hnd]
  · rw [pow_eq_pow_mod _ (ZMod.pow_card_sub_one_eq_one hx), hd, pow_one]

theorem exists_pow_seven_pow_mod_P : ∃ d, ∀ n : Nat, (n ^ 7) ^ d % P = n % P := by
  obtain ⟨d, hd⟩ := exists_pow_pow_eq_self prime_P (n := 7) (by decide) (by decide)
  refine ⟨d, fun n => (ZMod.natCast_eq_natCast_iff' _ _ P).mp ?_⟩
  rw [Nat.cast_pow, Nat.cast_pow, hd]

/-- Settles O37: the power that undoes the seventh power gives a root, and gives every root. -/
theorem powerMapIsABijectionOnTheField : Obligations.PowerMapIsABijectionOnTheField := by
  unfold Obligations.PowerMapIsABijectionOnTheField
  intro y hy
  obtain ⟨d, hd⟩ := exists_pow_seven_pow_mod_P
  refine ⟨reduce (y.toNat ^ d), canon_reduce _, ?_, fun z hz hzy => ?_⟩
  · apply BitVec.eq_of_toNat_eq
    rw [fpow7_toNat, reduce_toNat, ← Nat.pow_mod, pow_right_comm, hd, Nat.mod_eq_of_lt hy]
  · apply BitVec.eq_of_toNat_eq
    rw [← hzy, reduce_toNat, fpow7_toNat, ← Nat.pow_mod, hd, Nat.mod_eq_of_lt hz]

end Sys2Proof.Machine
end

section
/-!
PROOFS of the family 41_lookup_and_sboxes.md, part 3: the commands LUT, SBL, SBP and SBOX while no error is recorded (R141, R144, R147,
R149).
-/

namespace Sys2Proof.Machine

variable {s : State} {rd rs1 : RegIdx}

theorem exec_lut (he : s.status.err = false) (hc : lutCheck (s.reg rs1) = none) :
    exec (.lut rd rs1) s = .next (s.setReg rd ((lookup Config.rom ((s.reg rs1).setWidth 8)).setWidth 64)) :=
  exec_of_check_passes rfl he hc

theorem exec_sbl (he : s.status.err = false) :
    exec (.sbl rd rs1) s = .next (s.setReg rd (lookupSbox Config.rom (s.reg rs1))) :=
  exec_of_check_passes rfl he rfl

theorem exec_sbp (he : s.status.err = false) : exec (.sbp rd rs1) s = .next (s.setReg rd (fpow7 (s.reg rs1))) :=
  exec_of_check_passes rfl he rfl

theorem exec_sbox (he : s.status.err = false) : exec .sbox s = .next (s.commit (sboxLayer Config.rom s.regs)) :=
  State.unlessError_of_clear he

/-- Settles O33, along the branches of the operand check. -/
theorem lutSubstitutesAByteOrRaises : Obligations.LutSubstitutesAByteOrRaises := by
  unfold Obligations.LutSubstitutesAByteOrRaises
  intro s rd rs1 he b
  split
  case isTrue hr => exact exec_of_check_fails (i := .lut rd rs1) (e := .range) he (if_pos hr)
  case isFalse hr =>
    refine exists_next_of_write (exec_lut he (if_neg hr)) ?_
    rw [BitVec.toNat_setWidth_of_le (by decide), lookup, BitVec.ofNat_toNat]

/-- Settles O34: R142's formula on a whole element. -/
theorem sblRecombinesSubstitutedBytes : Obligations.SblRecombinesSubstitutedBytes := by
  unfold Obligations.SblRecombinesSubstitutedBytes
  exact fun s rd rs1 he => exists_next_of_write (exec_sbl he) (lookupSbox_toNat Config.rom (s.reg rs1))

/-- Settles O36. -/
theorem sbpRaisesToTheSeventhPower : Obligations.SbpRaisesToTheSeventhPower := by
  unfold Obligations.SbpRaisesToTheSeventhPower
  exact fun s rd rs1 he => exists_next_of_write (exec_sbp he) (fpow7_toNat (s.reg rs1))

/-- Settles O38: each position reads its own element (R148). -/
theorem sboxSplitsThePositions : Obligations.SboxSplitsThePositions := by
  unfold Obligations.SboxSplitsThePositions
  intro s he
  have hlayer := sboxLayer_getElem Config.rom s.regs
  refine ⟨_, exec_sbox he, s.changesOnlyStateFile_commit _, fun i hi => (hlayer i).trans (if_pos hi), fun i hi => ?_⟩
  rw [State.reg_commit, hlayer, if_neg (Nat.not_lt.mpr hi)]
  exact fpow7_toNat (s.reg i)

end Sys2Proof.Machine
end

section
/-!
PROOFS of the family 42_mds.md: the command MDS while no error is recorded, and the circulant product on the basis vectors and on two
inputs that differ at one position (R170, R171, R172, R174, R175).
-/

namespace Sys2Proof.Machine

/-! ## The command -/

theorem exec_mds {s : State} (he : s.status.err = false) : exec .mds s = .next (s.commit (mdsMultiply Config.rom s.regs)) :=
  State.unlessError_of_clear he

/-- Settles O39: each row is the sum of R171. -/
theorem mdsMultipliesByTheCirculant : Obligations.MdsMultipliesByTheCirculant := by
  unfold Obligations.MdsMultipliesByTheCirculant
  intro s he
  refine ⟨_, exec_mds he, s.changesOnlyStateFile_commit _, fun i => ?_⟩
  rw [State.reg_commit, mdsMultiply_getElem, mdsRow_toNat]
  rfl

/-! ## The basis vectors -/

/-- Settles O40: the sum of row i has the one term of position k. -/
theorem mdsMapsBasisVectorsToColumns : Obligations.MdsMapsBasisVectorsToColumns := by
  unfold Obligations.MdsMapsBasisVectorsToColumns
  intro rom k i
  have hbit (j : RegIdx) : (if j = k then 1 else 0 : Word).toNat = if j = k then 1 else 0 := by split <;> rfl
  rw [mdsMultiply_getElem, mdsRow_toNat]
  simp only [tabulate_getElem, hbit, mul_ite, mul_one, mul_zero, Finset.sum_ite_eq', Finset.mem_univ, if_true]
  exact Nat.mod_eq_of_lt (Fin.isLt _)

/-! ## Diffusion -/

variable {rom : Rom} {V W : Elems} {i j : RegIdx}

/-- Row i with position j's term apart, its coefficient written as in R171. -/
theorem mdsRow_toNat_eq_term_add_rest (rom : Rom) (V : Elems) (i j : RegIdx) :
    (mdsRow rom V i).toNat =
      ((rom.mdsCoeff (j - i)).val * V[j].toNat +
        ∑ m ∈ Finset.univ.erase j, (rom.mdsCoeff (m - i)).val * V[m].toNat) % P := by
  simp only [mdsRow_toNat, ← fin_sub_eq]
  rw [Finset.add_sum_erase _ (fun m => (rom.mdsCoeff (m - i)).val * V[m].toNat) (Finset.mem_univ j)]

/-- A difference at position j alone reaches output i through that position's term (R175). -/
theorem mdsRow_eq_iff (h : ∀ m : RegIdx, m ≠ j → V[m] = W[m]) :
    mdsRow rom V i = mdsRow rom W i ↔
      (rom.mdsCoeff (j - i)).val * V[j].toNat ≡ (rom.mdsCoeff (j - i)).val * W[j].toNat [MOD P] := by
  have hrest : ∑ m ∈ Finset.univ.erase j, (rom.mdsCoeff (m - i)).val * V[m].toNat =
      ∑ m ∈ Finset.univ.erase j, (rom.mdsCoeff (m - i)).val * W[m].toNat :=
    Finset.sum_congr rfl fun m hm => by rw [h m (Finset.ne_of_mem_erase hm)]
  rw [← BitVec.toNat_inj, mdsRow_toNat_eq_term_add_rest rom V i j, mdsRow_toNat_eq_term_add_rest rom W i j, hrest]
  exact ⟨Nat.ModEq.add_right_cancel' _, Nat.ModEq.add_right _⟩

/-- A nonzero field element may be cancelled, P being prime. -/
theorem mul_modEq_mul_iff_of_ne {c : Fin P} {a b : Word} (ha : canon a) (hb : canon b) (hab : a ≠ b) :
    c.val * a.toNat ≡ c.val * b.toNat [MOD P] ↔ c.val = 0 := by
  refine ⟨fun h => by_contra fun hc => hab ?_, fun hc => by rw [hc, zero_mul, zero_mul]⟩
  have hcop : P.Coprime c.val := prime_P.coprime_iff_not_dvd.mpr (Nat.not_dvd_of_pos_of_lt (Nat.pos_of_ne_zero hc) c.isLt)
  exact BitVec.eq_of_toNat_eq ((Nat.ModEq.cancel_left_of_coprime hcop h).eq_of_lt_of_lt ha hb)

/-- Settles O41: position j reaches output i through the coefficient `(j - i) mod 16`, and i runs through all of them. -/
theorem mdsDiffusesOneDifferenceToAllPositions : Obligations.MdsDiffusesOneDifferenceToAllPositions := by
  unfold Obligations.MdsDiffusesOneDifferenceToAllPositions
  intro rom V W j hV hW hj hrest
  have hout (i : RegIdx) : (mdsMultiply rom V)[i] ≠ (mdsMultiply rom W)[i] ↔ (rom.mdsCoeff (j - i)).val ≠ 0 := by
    rw [mdsMultiply_getElem, mdsMultiply_getElem, ne_eq, mdsRow_eq_iff hrest, mul_modEq_mul_iff_of_ne (hV j) (hW j) hj]
  rw [forall_congr' hout]
  exact (Equiv.subLeft j).forall_congr_right (q := fun k => (rom.mdsCoeff k).val ≠ 0)

end Sys2Proof.Machine
end

section
/-!
PROOFS of the family 43_rounds_and_permutation.md, part 1: the commands ARC, ROUND and PERM while no error is recorded, and the
permutation as a function (R190, R191, R192, R193, R194, R195).
-/

namespace Sys2Proof.Machine

/-! ## The commands -/

variable {s : State} {r : Fin 8} {k : Fin 5}

theorem exec_arc (he : s.status.err = false) (hk : roundIndex? r = some k) :
    exec (.arc r) s = .next ((s.schedule k k).commit (addRc Config.rom s.regs k)) := by
  rw [exec, execArc, hk]
  exact State.unlessError_of_clear he

theorem exec_round (he : s.status.err = false) (hk : roundIndex? r = some k) :
    exec (.round r) s = .next ((s.schedule k k).commit (roundFn Config.rom s.regs k)) := by
  rw [exec, execRound, hk]
  exact State.unlessError_of_clear he

theorem exec_perm (he : s.status.err = false) :
    exec .perm s = .next ((s.schedule 4 4).commit (permute Config.rom s.regs)) :=
  State.unlessError_of_clear he

theorem roundCheck_of_not_le (hr : ¬ r.val ≤ 4) : roundCheck r = some .illegal := if_pos (Nat.not_le.mp hr)

/-- Settles O42: the constant added at position i is the ROM entry of R39. -/
theorem arcAddsTheRoundConstants : Obligations.ArcAddsTheRoundConstants := by
  unfold Obligations.ArcAddsTheRoundConstants
  intro s r he
  split
  case isTrue hr =>
    refine ⟨_, exec_arc he (roundIndex?_of_le hr), s.changesOnlyStateFile_schedule_commit _ _ _, fun i => ?_⟩
    rw [State.reg_commit, addRc_getElem, fadd_toNat, rc_toNat, rcEntry_eq_ofNat]
    rfl
  case isFalse hr => exact exec_of_check_fails (i := .arc r) (e := .illegal) he (roundCheck_of_not_le hr)

/-- Settles O43: the three layers of R192, each read from the registers that the one before has written. -/
theorem roundIsSboxThenMdsThenArc : Obligations.RoundIsSboxThenMdsThenArc := by
  unfold Obligations.RoundIsSboxThenMdsThenArc
  intro s r he
  split
  case isTrue hr =>
    have hk := roundIndex?_of_le hr
    exact ⟨_, _, _, _, exec_round he hk, s.changesOnlyStateFile_schedule_commit _ _ _,
      exec_sbox he, exec_mds he, exec_arc he hk, rfl⟩
  case isFalse hr => exact exec_of_check_fails (i := .round r) (e := .illegal) he (roundCheck_of_not_le hr)

/-- Settles O44: each round is read from the registers that the one before has written. -/
theorem permIsTheFiveRoundsInOrder : Obligations.PermIsTheFiveRoundsInOrder := by
  unfold Obligations.PermIsTheFiveRoundsInOrder
  exact fun s he => ⟨_, _, _, _, _, _, exec_perm he, s.changesOnlyStateFile_schedule_commit _ _ _,
    exec_round he rfl, exec_round he rfl, exec_round he rfl, exec_round he rfl, exec_round he rfl, rfl⟩

/-! ## The dropped bits -/

variable {rom : Rom} {V W : Elems}

/-- The substitution layer reads bits 15:0 and 47:32 of positions 0-3, and all of positions 4-15 (R143, R148). -/
theorem sboxLayer_congr
    (hsplit : ∀ i : RegIdx, i.val < 4 →
      V[i].toNat % 2 ^ 16 = W[i].toNat % 2 ^ 16 ∧ V[i].toNat / 2 ^ 32 % 2 ^ 16 = W[i].toNat / 2 ^ 32 % 2 ^ 16)
    (hpower : ∀ i : RegIdx, 4 ≤ i.val → V[i] = W[i]) : sboxLayer rom V = sboxLayer rom W := by
  apply elems_ext
  intro i
  rw [sboxLayer_getElem, sboxLayer_getElem]
  split
  case isTrue hi =>
    obtain ⟨hlo, hhi⟩ := hsplit i hi
    exact lookupSbox_congr rom hlo hhi
  case isFalse hi => rw [hpower i (Nat.not_lt.mp hi)]

/-- A round reads its input through the substitution layer (R192). -/
theorem roundFn_congr (h : sboxLayer rom V = sboxLayer rom W) (k : Fin 5) : roundFn rom V k = roundFn rom W k := by
  rw [roundFn, roundFn, h]

/-- Settles O45: the first round does not see the dropped bits. -/
theorem permuteIgnoresTheDroppedBits : Obligations.PermuteIgnoresTheDroppedBits := by
  unfold Obligations.PermuteIgnoresTheDroppedBits
  intro rom V W hsplit hpower
  rw [permute, permute, roundFn_congr (sboxLayer_congr hsplit hpower)]

end Sys2Proof.Machine
end

section
/-!
PROOFS of the family 43_rounds_and_permutation.md, part 2: what a command leaves in the registers and in ERR depends on the registers,
ERR and the data word alone (R198). Agreement in these three is a relation that every command keeps.
-/

namespace Sys2Proof.Machine

/-- The two states agree in what the result of a command depends on (R198). -/
structure State.Agrees (s u : State) : Prop where
  regs : s.regs = u.regs
  err  : s.status.err = u.status.err
  data : s.cmdData = u.cmdData

variable {s u s' u' : State}

theorem State.Agrees.reg (h : s.Agrees u) (i : RegIdx) : s.reg i = u.reg i := State.reg_congr h.regs i

theorem State.Agrees.setReg {v v' : Word} (h : s.Agrees u) (rd : RegIdx) (hv : v = v') :
    (s.setReg rd v).Agrees (u.setReg rd v') where
  regs := by rw [State.setReg, State.setReg, h.regs, hv]
  err := h.err
  data := h.data

theorem State.Agrees.commit {V V' : Elems} (h : s.Agrees u) (hV : V = V') : (s.commit V).Agrees (u.commit V') where
  regs := hV
  err := h.err
  data := h.data

theorem State.Agrees.schedule (h : s.Agrees u) (k l : Fin 5) : (s.schedule k l).Agrees (u.schedule k l) :=
  ⟨h.regs, h.err, h.data⟩

/-- Both states drop the command, or both record the error of the same check, or both carry the command out (R235). -/
theorem State.Agrees.checked (h : s.Agrees u) (i : Instr) (h' : s'.Agrees u') :
    ∃ a b, s.unlessError (s.checked (operandCheck i s) (encode i) s') = .next a ∧
      u.unlessError (u.checked (operandCheck i u) (encode i) u') = .next b ∧ a.Agrees b := by
  rw [← operandCheck_congr h.regs h.data i]
  cases hs : s.status.err with
  | true => exact ⟨s, u, State.unlessError_of_set hs, State.unlessError_of_set (h.err ▸ hs), h⟩
  | false =>
    have hu : u.status.err = false := h.err ▸ hs
    rw [State.unlessError_of_clear hs, State.unlessError_of_clear hu]
    cases operandCheck i s with
    | none => exact ⟨s', u', rfl, rfl, h'⟩
    | some e =>
      rw [State.checked_some, State.checked_some, State.raise_of_clear hs, State.raise_of_clear hu]
      exact ⟨_, _, rfl, rfl, h.regs, rfl, h.data⟩

/-- Every command keeps the agreement. -/
theorem exec_agrees (h : s.Agrees u) (i : Instr) :
    ∃ s' u', exec i s = .next s' ∧ exec i u = .next u' ∧ s'.Agrees u' := by
  have guarded {a b : State} := h.checked i (s' := a) (u' := b)
  cases i with
  | nop => exact ⟨s, u, rfl, rfl, h⟩
  | rds | rdstat => exact ⟨_, _, rfl, rfl, h.regs, h.err, h.data⟩
  | clrerr => exact ⟨_, _, rfl, rfl, h.regs, rfl, h.data⟩
  | wrs rd => exact guarded (h.setReg rd h.data)
  | fadd rd a b | fmul rd a b | fromlimbs rd a b => exact guarded (h.setReg rd (by rw [h.reg a, h.reg b]))
  | limbhi rd a | limblo rd a | byte rd a | lut rd a | sbl rd a | sbp rd a =>
    exact guarded (h.setReg rd (by rw [h.reg a]))
  | sbox | mds => exact guarded (h.commit (by rw [h.regs]))
  | perm => exact guarded ((h.schedule 4 4).commit (by rw [h.regs]))
  | arc r =>
    rw [exec, exec, execArc_eq, execArc_eq]
    exact guarded ((h.schedule _ _).commit (by rw [h.regs]))
  | round r =>
    rw [exec, exec, execRound_eq, execRound_eq]
    exact guarded ((h.schedule _ _).commit (by rw [h.regs]))

/-- Settles O50. -/
theorem resultsDependOnRegistersAndErrorAlone : Obligations.ResultsDependOnRegistersAndErrorAlone := by
  unfold Obligations.ResultsDependOnRegistersAndErrorAlone
  intro i s u hregs herr hdata
  obtain ⟨s', u', hs, hu, h'⟩ := exec_agrees ⟨hregs, herr, hdata⟩ i
  exact ⟨s', u', hs, hu, h'.regs, h'.err⟩

end Sys2Proof.Machine
end

section
/-!
PROOFS of the family 44_host_and_control.md: WRS while no error is recorded (R211), and NOP, RDS, RDSTAT and CLRERR, which execute
whatever ERR is (R235). The value of RDSTAT is STATUS as an integer, field by field (R25).
-/

namespace Sys2Proof.Machine

variable {s : State} {rd rs1 : RegIdx}

/-! ## The commands -/

theorem exec_wrs (he : s.status.err = false) (hc : wrsCheck s.cmdData = none) :
    exec (.wrs rd) s = .next (s.setReg rd s.cmdData) :=
  exec_of_check_passes rfl he hc

/-- Settles O22, along the branches of the operand check. -/
theorem wrsStoresCanonicalDataOnly : Obligations.WrsStoresCanonicalDataOnly := by
  unfold Obligations.WrsStoresCanonicalDataOnly
  intro s rd he
  split
  case isTrue hP =>
    exact ⟨_, exec_wrs he (if_neg (Nat.not_le.mpr hP)), s.reg_setReg_self rd _, s.changesOnlyReg_setReg rd _⟩
  case isFalse hP => exact exec_of_check_fails (i := .wrs rd) (e := .noncanon) he (if_pos (Nat.not_lt.mp hP))

/-- Settles O23: a good state holds canonical registers (R21). -/
theorem rdsRespondsWithTheRegister : Obligations.RdsRespondsWithTheRegister := by
  unfold Obligations.RdsRespondsWithTheRegister
  exact fun s rs1 => ⟨_, rfl, rfl, fun hs => hs.regs rs1⟩

/-! ## STATUS as an integer -/

/-- `a ++ b` as integers (R10). -/
theorem append_toNat {m n : Nat} (a : BitVec m) (b : BitVec n) : (a ++ b).toNat = a.toNat * 2 ^ n + b.toNat := by
  rw [BitVec.toNat_append, Nat.shiftLeft_eq, Nat.mul_comm a.toNat, ← Nat.two_pow_add_eq_or_of_lt b.isLt]

/-- R25: the reserved bits are 0. -/
theorem Status.word_toNat (st : Status) :
    st.word.toNat = st.ecmd.toNat * 2 ^ 32 + st.ecode.toNat * 2 ^ 4 + st.err.toNat * 2 + st.busy.toNat := by
  simp only [Status.word, append_toNat, BitVec.toNat_ofBool, BitVec.ofNat_eq_ofNat, BitVec.toNat_ofNat]
  omega

/-- Bit 0 of STATUS is BUSY (R28). -/
theorem Status.word_bit_zero (st : Status) : st.word.toNat % 2 = st.busy.toNat := by
  have := st.busy.toNat_lt
  rw [Status.word_toNat]
  omega

/-- Settles O24. -/
theorem rdstatRespondsWithTheStatusLayout : Obligations.RdstatRespondsWithTheStatusLayout := by
  unfold Obligations.RdstatRespondsWithTheStatusLayout
  refine fun s => ⟨_, rfl, s.status.word_toNat, fun hs hi => ?_⟩
  rw [Status.word_bit_zero, hs.busy_of_idle (s.isIdle_iff.mp hi)]
  rfl

/-! ## NOP and CLRERR in a step -/

/-- A command whose word the host presents to an idle unit runs on the accepted state (R265). -/
theorem step_of_command_of_idle {i : Instr} {w : CmdWord} {d : Word} {rest : List HostAct} (hi : s.isIdle = true)
    (h : s.host = .command w d :: rest) (hd : decode w = .cmd i) : step s = exec i (s.accepted w d rest) := by
  rw [step_of_command h hd, State.settle_of_idle (s.isIdle_iff.mp hi)]

/-- Settles O21: the two words are those of NOP and CLRERR. -/
theorem nopAndClearErrorAlwaysExecute : Obligations.NopAndClearErrorAlwaysExecute := by
  unfold Obligations.NopAndClearErrorAlwaysExecute
  have hnop : decode 0x00000000 = .cmd .nop := decodeOfEncodeIsIdentity .nop rfl
  have hclrerr : decode 0x04000000 = .cmd .clrerr := decodeOfEncodeIsIdentity .clrerr rfl
  exact fun s => ⟨rfl, rfl, fun d rest hi =>
    ⟨fun h => step_of_command_of_idle hi h hnop, fun h => step_of_command_of_idle hi h hclrerr⟩⟩

end Sys2Proof.Machine
end

section
/-!
PROOFS of the family 60_exceptions.md, part 1: one step and one command. What a word raises is what the operand check of its command
finds (R231), or E_ILLEGAL (R87); while ERR = 1 it is dropped but for the four commands of R235; an idle unit holds its state (R246).
-/

namespace Sys2Proof.Machine

variable {i : Instr} {s t : State} {w : CmdWord} {d : Word} {rest : List HostAct}

/-! ## Nothing from the host -/

/-- Settles O13: no command is in progress, so the step only ends a cycle. -/
theorem idleUnitHoldsItsState : Obligations.IdleUnitHoldsItsState := by
  unfold Obligations.IdleUnitHoldsItsState
  intro s hi
  have hsettle : s.settle = s := State.settle_of_idle (s.isIdle_iff.mp hi)
  refine ⟨fun h => ?_, fun rest h => ?_⟩
  · have hstep : step s = .next s.settle.endCycle := by rw [step, h]
    rw [hstep, hsettle]
    rfl
  · rw [step, h, hsettle]
    rfl

/-- A retaining unit counts a stop of the clock and changes nothing else (R246). -/
theorem State.clockStopped_of_retains (hr : Config.clockStopRetains = true) (s : State) :
    s.clockStopped = { s with freeIdx := s.freeIdx + 1 } := if_pos hr

/-- Settles O14. -/
theorem clockStopKeepsStateOfARetainingUnit : Obligations.ClockStopKeepsStateOfARetainingUnit := by
  unfold Obligations.ClockStopKeepsStateOfARetainingUnit
  intro s rest h
  refine ⟨{ s.clockStopped with host := rest }, by rw [step, h], rfl, fun hr => ?_⟩
  rw [State.clockStopped_of_retains hr]

/-! ## The errors of a command -/

/-- Settles O16: of the effects of a command, recording an error is the one that sets ERR. -/
theorem errorIsPreciseAndNamesTheCommand : Obligations.ErrorIsPreciseAndNamesTheCommand := by
  unfold Obligations.ErrorIsPreciseAndNamesTheCommand
  intro i s t he ht hte
  cases effect_of_exec ht with
  | error e _ hc => exact ⟨e, hc, rfl⟩
  | clear => simp at hte
  | skip | write | layers | respond => exact absurd hte (ne_true_of_eq_false he)

/-- A command whose operand check passes leaves ERR = 0 (R238). -/
theorem err_of_exec_of_check_passes (he : s.status.err = false) (hc : operandCheck i s = none)
    (ht : exec i s = .next t) : t.status.err = false := by
  by_contra hte
  obtain ⟨e, he', -⟩ := errorIsPreciseAndNamesTheCommand i s t he ht (Bool.eq_true_of_not_eq_false hte)
  simp [hc] at he'

/-- Settles O18, by the effects of a command. -/
theorem commandsAreDroppedWhileErrorIsSet : Obligations.CommandsAreDroppedWhileErrorIsSet := by
  unfold Obligations.CommandsAreDroppedWhileErrorIsSet
  intro i s hr he
  obtain ⟨t, ht, hi⟩ := exec_effect i s
  rw [ht, hi.eq_of_dropped he hr]

/-! ## The errors of a word -/

/-- An illegal word that the host presents to an idle unit raises E_ILLEGAL in the accepted state (R87, R265). -/
theorem step_of_illegal_of_idle {why : Illegal} (hi : s.isIdle = true) (h : s.host = .command w d :: rest)
    (hd : decode w = .illegal why) : step s = .next ((s.accepted w d rest).illegalCommand w) := by
  rw [step, h, State.settle_of_idle (s.isIdle_iff.mp hi)]
  simp only [State.runWord, hd]
  rfl

/-- The register that a field of a word names. -/
theorem State.regAt_of_bitsOf {r : RegIdx} {hi lo : Nat} (s : State) (h : bitsOf w hi lo = r.val) :
    s.regAt w hi lo = (s.reg r).toNat := by
  rw [State.regAt, h, Fin.ofNat_val_eq_self]

/-- The cause code of a check's outcome, 0 when it passes (R231). -/
def codeOf (c : Option ErrCause) : Nat := c.elim 0 fun e => e.code.toNat

theorem codeOf_ite {p : Prop} [Decidable p] (e : ErrCause) (c : Option ErrCause) :
    codeOf (if p then some e else c) = if p then e.code.toNat else codeOf c := by
  split <;> rfl

/-- The table of R231 on a legal word, by its fields. -/
theorem causeCode_assembleWord {o : BitVec 8} {a b c : RegIdx} {m : BitVec 12}
    (hl : legalWord (assembleWord o a b c m) = true) (s : State) (d : Word) :
    causeCode s (assembleWord o a b c m) d =
      if o.toNat = 0x20 then codeOf (lutCheck (s.reg b))
      else if o.toNat = 0x15 then codeOf (byteCheck (s.reg b))
      else if o.toNat = 0x14 then codeOf (fromlimbsCheck (s.reg b) (s.reg c))
      else if o.toNat = 0x01 then codeOf (wrsCheck d)
      else 0 := by
  obtain ⟨ho, -, hb, hc, -⟩ := bitsOf_assembleWord o a b c m
  simp only [causeCode, hl, ho, s.regAt_of_bitsOf hb, s.regAt_of_bitsOf hc, lutCheck, byteCheck, fromlimbsCheck, wrsCheck,
    codeOf_ite]
  rfl

theorem roundCheck_of_le {r : Fin 8} (hr : r.val ≤ 4) : roundCheck r = none := if_neg (Nat.not_lt.mpr hr)

/-- The table of R231 on the word of a command is the command's operand check, made when the word is sampled (R234, R238). -/
theorem causeCode_encode (hw : i.wellFormed = true) (s : State) (d : Word) (rest : List HostAct) :
    causeCode s (encode i) d = codeOf (operandCheck i (s.accepted (encode i) d rest)) := by
  have hl : legalWord (encode i) = true := (legalWord_encode_iff i).mpr hw
  cases i with
  | arc r | round r =>
    rw [operandCheck, roundCheck_of_le (of_decide_eq_true hw)]
    exact causeCode_assembleWord hl s d
  | _ => exact causeCode_assembleWord hl s d

/-- A legal word that the host presents to an idle unit without an error raises what its operand check finds, or nothing. -/
theorem step_raises_of_legalWord (hi : s.isIdle = true) (he : s.status.err = false) (h : s.host = .command w d :: rest)
    (hd : decode w = .cmd i) : ∃ t, step s = .next t ∧
      if causeCode s w d = 0 then t.status.err = false
      else t = (s.accepted w d rest).withError (BitVec.ofNat 4 (causeCode s w d)) w := by
  obtain ⟨hw, rfl⟩ := encodeOfDecodeIsIdentity w i hd
  rw [step_of_command_of_idle hi h hd, causeCode_encode hw s d rest]
  cases hc : operandCheck i (s.accepted (encode i) d rest) with
  | none =>
    obtain ⟨t, ht, -⟩ := exec_effect i (s.accepted (encode i) d rest)
    exact ⟨t, ht, err_of_exec_of_check_passes (s := s.accepted (encode i) d rest) he hc ht⟩
  | some e =>
    refine ⟨_, exec_of_check_fails he hc, ?_⟩
    cases e <;> rfl

/-- Settles O15: an illegal word is the first line of the table, a legal one its command's operand check. -/
theorem everyWordRaisesItsListedError : Obligations.EveryWordRaisesItsListedError := by
  unfold Obligations.EveryWordRaisesItsListedError
  intro s w d rest hi he h
  by_cases hl : legalWord w = true
  · obtain ⟨i, -, hd, -⟩ := exists_decode_of_legalWord hl
    exact step_raises_of_legalWord hi he h hd
  · obtain ⟨why, hd⟩ := exists_illegal_of_not_legalWord hl
    have hcode : causeCode s w d = 1 := if_pos (Bool.eq_false_of_not_eq_true hl)
    refine ⟨_, step_of_illegal_of_idle hi h hd, ?_⟩
    rw [hcode]
    exact State.raise_of_clear (s := s.accepted w d rest) he .illegal w

/-- Settles O17, by what the word decodes to. -/
theorem onlyFourCommandsRunWhileErrorIsSet : Obligations.OnlyFourCommandsRunWhileErrorIsSet := by
  unfold Obligations.OnlyFourCommandsRunWhileErrorIsSet
  intro s w d rest hi he h
  cases hd : decode w with
  | illegal why =>
    have hstep := step_of_illegal_of_idle hi h hd
    rw [State.illegalCommand, State.raise_of_set (s := s.accepted w d rest) he] at hstep
    exact .inl ⟨hstep, nofun, nofun, nofun⟩
  | cmd i =>
    have hstep := step_of_command_of_idle hi h hd
    cases i with
    | nop => exact .inl ⟨hstep, nofun, nofun, nofun⟩
    | rds r => exact .inr (.inl ⟨r, rfl, hstep⟩)
    | rdstat => exact .inr (.inr (.inl ⟨rfl, hstep⟩))
    | clrerr => exact .inr (.inr (.inr ⟨rfl, hstep⟩))
    | _ =>
      rw [commandsAreDroppedWhileErrorIsSet _ (s.accepted w d rest) rfl he] at hstep
      exact .inl ⟨hstep, nofun, nofun, nofun⟩

end Sys2Proof.Machine
end

section
/-!
PROOFS of the family 60_exceptions.md, part 2: a command that has started cannot fail (R238).
-/

namespace Sys2Proof.Machine

variable {i : Instr} {s t : State}

/-- With ERR = 0 there is nothing to clear in a legal STATUS (R32). -/
theorem Status.Legal.clear_eq {st : Status} (h : st.Legal) (he : st.err = false) : st.clear = st := by
  obtain ⟨hcode, hcmd⟩ := h.1 he
  cases st
  simp_all [Status.clear]

/-- A command whose operand check is what ERR says already leaves STATUS as it is (R238). -/
theorem Effect.status_of_err_eq_check (h : Effect i s t) (hs : s.status.Legal)
    (he : s.status.err = (operandCheck i s).isSome) : t.status = s.status := by
  cases h with
  | error e h hc => simp [h, hc] at he
  | clear h =>
    subst h
    exact hs.clear_eq he
  | skip | write | layers | respond => rfl

/-- Leaving DONE, a command in progress changes nothing of STATUS but BUSY (R238). -/
theorem State.Ok.finish_status (h : s.Ok) (hi : s.ph ≠ .idle) : s.finish.status = s.status.setBusy false := by
  obtain ⟨i, hd, he⟩ := h.started (State.isIdle_eq_false_iff.mpr hi)
  cases hw : wholeState i with
  | true =>
    rw [State.finish_of_wholeState hd hw]
    rfl
  | false =>
    have hf : Effect i s.closed s.finish := effect_of_exec (State.exec_closed hd hw)
    exact hf.status_of_err_eq_check h.closed.status (he.trans (congrArg _ (operandCheck_congr rfl rfl i)))

/-- Carried to its end, the command in progress changes nothing of STATUS but BUSY (R238). -/
theorem State.Ok.settle_status (h : s.Ok) (hi : s.ph ≠ .idle) : s.settle.status = s.status.setBusy false := by
  have hOk : (s.toDone 15).Ok := State.toDone_induction (fun _ h hi _ => h.advance hi) 15 h
  have hph : (s.toDone 15).ph ≠ .idle := by simp [State.toDone_ph 15 hi s.transitionsLeft_le]
  rw [State.settle_eq_finish hi, hOk.finish_status hph, State.toDone_frame]

/-- A transition before DONE leaves STATUS as it is. -/
theorem State.advance_status (hd : s.ph ≠ .done) : s.advance.status = s.status := by
  obtain ⟨-, h, -⟩ := State.advance_frame hd
  exact h

/-- So does going to DONE. -/
theorem State.writeCycle_status (s : State) : s.writeCycle.status = s.status :=
  State.writeCycle_induction (p := fun u => u.status = s.status)
    (fun _ h _ hd => (State.advance_status hd).trans h) rfl

/-- So does a transition to another layer. -/
theorem State.advanceWithin_status (s : State) : s.advanceWithin.status = s.status := by
  rcases s.advanceWithin_cases with h | ⟨h, -, hd, -⟩
  · rw [h]
  · rw [h, State.advance_status hd]

/-- An edge while a command is in progress changes nothing of STATUS, or BUSY falls (R238, R266). -/
theorem State.Ok.busyEdge_status (h : s.Ok) (hi : s.ph ≠ .idle) (tm : Timing) :
    (s.busyEdge tm).status = s.status ∨ (s.busyEdge tm).status = s.status.setBusy false := by
  by_cases hl : s.left ≤ 1
  · rw [State.busyEdge_of_last tm hl]
    exact .inr (h.endCycle.settle_status hi)
  · left
    rcases State.busyEdge_cases tm (Nat.not_le.mp hl) with e | e <;> rw [e, State.writeCycle_status]
    · rfl
    · exact s.endCycle.advanceWithin_status

/-- A legal multi-cycle command has no operand check that can fail (R238). -/
theorem operandCheck_of_multiCycle (hw : i.wellFormed = true) (hm : multiCycle i = true) (s : State) :
    operandCheck i s = none := by
  cases i with
  | fmul | sbp | sbox | mds | perm => rfl
  | round r => exact roundCheck_of_le (of_decide_eq_true hw)
  | _ => cases hm

/-- Settles O53: ERR, ECODE and ECMD were written at the accepting edge, and in progress only BUSY changes. -/
theorem startedCommandCannotFail : Obligations.StartedCommandCannotFail := by
  unfold Obligations.StartedCommandCannotFail
  intro tm p s hs hidle
  have hi := State.isIdle_eq_false_iff.mp hidle
  have hkeeps (hp : p.rst = false) : (clock tm p s).status = { s.status with busy := (clock tm p s).status.busy } := by
    rw [clock_of_busy hp tm hi]
    rcases hs.busyEdge_status hi tm with h | h
    · rw [h]
    · rw [h]
      rfl
  refine ⟨hkeeps, fun i hd hm => ?_⟩
  obtain ⟨j, hj, herr⟩ := hs.started hidle
  obtain rfl : i = j := by
    rw [hd] at hj
    injection hj
  have he : s.status.err = false := by
    rw [herr, operandCheck_of_multiCycle (decode_wellFormed hd) hm]
    rfl
  refine ⟨he, ?_⟩
  cases hp : p.rst with
  | true =>
    rw [clock_of_rst hp]
    rfl
  | false =>
    rw [hkeeps hp]
    exact he

end Sys2Proof.Machine
end

section
/-!
PROOFS of the family 70_reset_and_hazards.md: a reset edge and what the unit does after it (R261, R262), and the edges at which the
command port is not sampled (R262, R265).
-/

namespace Sys2Proof.Machine

variable {s : State}

/-! ## Reset -/

/-- While `rst` = 1 nothing is accepted (R262). -/
theorem cmdReady_of_rst {p : Pins} (hp : p.rst = true) (s : State) : cmdReady p s = false := by
  rw [cmdReady, hp, Bool.not_true, Bool.false_and]

/-- While `rst` = 1 there is no response (R262). -/
theorem rspValid_of_rst {p : Pins} (hp : p.rst = true) (s : State) : rspValid p s = false := by
  rw [rspValid, hp, Bool.not_true, Bool.false_and]

/-- An idle unit is ready in a cycle without reset (R265). -/
theorem cmdReady_of_idle {q : Pins} (hq : q.rst = false) (hi : s.ph = .idle) : cmdReady q s = true := by
  rw [cmdReady, hq, s.isIdle_iff.mpr hi, Bool.not_false, Bool.true_and]

/-- Without a response in the state there is none on the port (R35). -/
theorem rspValid_of_rsp_none (q : Pins) (h : s.rsp = none) : rspValid q s = false := by
  rw [rspValid, h, Option.isSome_none, Bool.and_false]

@[simp] theorem State.reg_resetEdge (s : State) (i : RegIdx) : s.resetEdge.reg i = 0 := by
  simp [State.reg]

@[simp] theorem Status.word_reset : Status.reset.word = 0 := by decide

/-- A step in which the host holds `rst` = 1 is a reset edge, and the host goes on with the rest of its list (R260, R261). -/
theorem step_of_reset {rest : List HostAct} (h : s.host = .reset :: rest) :
    step s = .next { s.resetEdge with host := rest } := by
  rw [step, h]

/-- Settles O12: at both levels the state after is that of `State.resetEdge`, whatever the state before. -/
theorem resetSetsEveryPieceAndAbandonsTheCommand : Obligations.ResetSetsEveryPieceAndAbandonsTheCommand := by
  unfold Obligations.ResetSetsEveryPieceAndAbandonsTheCommand
  refine ⟨fun tm p s hp => ?_, fun s rest h => ?_⟩
  · refine ⟨cmdReady_of_rst hp s, rspValid_of_rst hp s, ?_⟩
    rw [clock_of_rst hp]
    exact ⟨s.reg_resetEdge, Status.word_reset, rfl, rfl, fun q hq => ⟨cmdReady_of_idle hq rfl, rspValid_of_rsp_none q rfl⟩⟩
  · exact ⟨_, step_of_reset h, s.reg_resetEdge, Status.word_reset, rfl, rfl, rfl, rfl⟩

/-! ## The command port -/

/-- Settles O54: the edge is a reset edge, one of a command in progress, or one that ends an idle cycle, and none of these reads the
command port. -/
theorem portIsSampledOnlyAtTheAcceptingEdge : Obligations.PortIsSampledOnlyAtTheAcceptingEdge := by
  unfold Obligations.PortIsSampledOnlyAtTheAcceptingEdge
  intro tm p q s hpq h
  cases hp : p.rst with
  | true => rw [clock_of_rst hp, clock_of_rst (hpq ▸ hp)]
  | false =>
    have hq : q.rst = false := hpq ▸ hp
    by_cases hi : s.ph = .idle
    · obtain ⟨hvp, hvq⟩ : p.cmdValid = false ∧ q.cmdValid = false := by
        simpa [hp, State.isIdle, hi] using h
      rw [clock_of_quiet hp hvp tm hi, clock_of_quiet hq hvq tm hi]
    · rw [clock_of_busy hp tm hi, clock_of_busy hq tm hi]

end Sys2Proof.Machine
end
